-- ==== Sys2Proof/Word.lean ====
section
/-! DEFINITION. The word types of the machine: bytes, 16-bit words, 12-bit and 4-bit immediates, register numbers. -/

namespace Sys2Proof

/-- An 8-bit value: a V register, a timer, a memory byte, an `NN` immediate (10_state.md R20, R27, R33). -/
abbrev Byte := BitVec 8

/-- A 16-bit value: an opcode, `I`, `pc`, a stack slot (10_state.md R22, R23, R24). -/
abbrev Word := BitVec 16

/-- A 12-bit `NNN` immediate (30_encoding.md R72). -/
abbrev Imm12 := BitVec 12

/-- A 4-bit `N` immediate (30_encoding.md R72). -/
abbrev Imm4 := BitVec 4

/-- The number of a V register, 0 to 15 (10_state.md R20). -/
abbrev Reg := Fin 16

/-- The number of the flag register VF (10_state.md R21). -/
abbrev vf : Reg := 15

end Sys2Proof
end

