-- ==== Sys2Proof/Config.lean ====
section
/-! DEFINITION. The fixed sizes and parameters of 00_scope.md R4 and R5, and the one free value of the spec. -/

namespace Sys2Proof

/-- `MEM_SIZE`, 4096 bytes (00_scope.md R4). -/
def Config.memSize : Nat := 4096

/-- `START`, the program start address 0x200 (00_scope.md R4). -/
def Config.start : Nat := 0x200

/-- The largest program image, `MEM_SIZE - START` = 3584 bytes (00_scope.md R4). -/
def Config.maxImage : Nat := 3584

/-- `FONT_BASE`, 0x050 (00_scope.md R4). -/
def Config.fontBase : Nat := 0x050

/-- 2 to the power `I_BITS` = 12: `FX1E` keeps the sum modulo this (00_scope.md R5, decision D1; log entry 4). -/
def Config.indexModulus : Nat := 0x1000

/-- `FONT`, the 80 glyph bytes at 0x050 (10_state.md R41, decision D10). PRESUMED: the spec takes these bytes from
general knowledge, not from its source (log entry 1). -/
def Config.font : List Byte :=
  [0xF0, 0x90, 0x90, 0x90, 0xF0,  0x20, 0x60, 0x20, 0x20, 0x70,
   0xF0, 0x10, 0xF0, 0x80, 0xF0,  0xF0, 0x10, 0xF0, 0x10, 0xF0] ++
  [0x90, 0x90, 0xF0, 0x10, 0x10,  0xF0, 0x80, 0xF0, 0x10, 0xF0,
   0xF0, 0x80, 0xF0, 0x90, 0xF0,  0xF0, 0x10, 0x20, 0x40, 0x40] ++
  [0xF0, 0x90, 0xF0, 0x90, 0xF0,  0xF0, 0x90, 0xF0, 0x10, 0xF0,
   0xF0, 0x90, 0xF0, 0x90, 0x90,  0xE0, 0x90, 0xE0, 0x90, 0xE0] ++
  [0xF0, 0x80, 0x80, 0x80, 0xF0,  0xE0, 0x90, 0x90, 0x90, 0xE0,
   0xF0, 0x80, 0xF0, 0x80, 0xF0,  0xF0, 0x80, 0xF0, 0x80, 0x80]

/-- What `random_byte()` returns at the n-th draw: a free value, no generator, no law (10_state.md R35, 43_alu.md
R132, decision D7; log entry 2). It has no body, so nothing can be proved of a value of it. -/
opaque Config.randomByte : Nat → Byte

/-- The byte memory holds at an address after `RESET`, and so what an unlisted address reads as: the font at 0x050 to
0x09F and 0 elsewhere (10_state.md R40, R41). -/
def Config.resetByte (a : Nat) : Byte :=
  if Config.fontBase ≤ a ∧ a < Config.fontBase + 80 then Config.font.getD (a - Config.fontBase) 0 else 0

end Sys2Proof
end

