-- ==== Sys2Proof/Syntax.lean ====
section
/-! DEFINITION. The instructions: one constructor per row of spec/opcode_table.json, in the table's order. -/

namespace Sys2Proof

/-- The 34 instructions of 30_encoding.md R74. The Y field of `8XY6` and `8XYE` is kept as the row gives it; no
meaning reads it (30_encoding.md R76). -/
inductive Instr where
  /-- `00E0`, CLS -/
  | cls
  /-- `00EE`, RET -/
  | ret
  /-- `1NNN`, JP nnn -/
  | jp (nnn : Imm12)
  /-- `2NNN`, CALL nnn -/
  | call (nnn : Imm12)
  /-- `3XNN`, SE Vx, nn -/
  | seImm (x : Reg) (nn : Byte)
  /-- `4XNN`, SNE Vx, nn -/
  | sneImm (x : Reg) (nn : Byte)
  /-- `5XY0`, SE Vx, Vy -/
  | seReg (x y : Reg)
  /-- `6XNN`, LD Vx, nn -/
  | ldImm (x : Reg) (nn : Byte)
  /-- `7XNN`, ADD Vx, nn -/
  | addImm (x : Reg) (nn : Byte)
  /-- `8XY0`, LD Vx, Vy -/
  | ldReg (x y : Reg)
  /-- `8XY1`, OR Vx, Vy -/
  | orReg (x y : Reg)
  /-- `8XY2`, AND Vx, Vy -/
  | andReg (x y : Reg)
  /-- `8XY3`, XOR Vx, Vy -/
  | xorReg (x y : Reg)
  /-- `8XY4`, ADD Vx, Vy -/
  | addReg (x y : Reg)
  /-- `8XY5`, SUB Vx, Vy -/
  | subReg (x y : Reg)
  /-- `8XY6`, SHR Vx -/
  | shr (x y : Reg)
  /-- `8XY7`, SUBN Vx, Vy -/
  | subnReg (x y : Reg)
  /-- `8XYE`, SHL Vx -/
  | shl (x y : Reg)
  /-- `9XY0`, SNE Vx, Vy -/
  | sneReg (x y : Reg)
  /-- `ANNN`, LD I, nnn -/
  | ldI (nnn : Imm12)
  /-- `BNNN`, JP V0, nnn -/
  | jpV0 (nnn : Imm12)
  /-- `CXNN`, RND Vx, nn -/
  | rnd (x : Reg) (nn : Byte)
  /-- `DXYN`, DRW Vx, Vy, n -/
  | drw (x y : Reg) (n : Imm4)
  /-- `EX9E`, SKP Vx -/
  | skp (x : Reg)
  /-- `EXA1`, SKNP Vx -/
  | sknp (x : Reg)
  /-- `FX07`, LD Vx, DT -/
  | ldFromDt (x : Reg)
  /-- `FX0A`, LD Vx, K -/
  | waitKey (x : Reg)
  /-- `FX15`, LD DT, Vx -/
  | ldDt (x : Reg)
  /-- `FX18`, LD ST, Vx -/
  | ldSt (x : Reg)
  /-- `FX1E`, ADD I, Vx -/
  | addI (x : Reg)
  /-- `FX29`, LD F, Vx -/
  | ldFont (x : Reg)
  /-- `FX33`, LD B, Vx -/
  | bcd (x : Reg)
  /-- `FX55`, LD [I], Vx -/
  | storeRegs (x : Reg)
  /-- `FX65`, LD Vx, [I] -/
  | loadRegs (x : Reg)
deriving DecidableEq, Repr

end Sys2Proof
end

