-- ==== Sys2Proof/WellFormed.lean ====
section
/-! DEFINITION. Well-formedness: the operand fields of an instruction fit their widths, and the arguments a host gives
its events are in the ranges the spec names. -/

namespace Sys2Proof

/-- The value and the width in bits of each operand field of an instruction (30_encoding.md R71, R72). -/
def Instr.operands : Instr → List (Nat × Nat)
  | .cls | .ret => []
  | .jp nnn | .call nnn | .ldI nnn | .jpV0 nnn => [(nnn.toNat, 12)]
  | .seImm x nn | .sneImm x nn | .ldImm x nn | .addImm x nn | .rnd x nn => [(x.val, 4), (nn.toNat, 8)]
  | .seReg x y | .ldReg x y | .orReg x y | .andReg x y | .xorReg x y | .addReg x y | .subReg x y | .shr x y
  | .subnReg x y | .shl x y | .sneReg x y => [(x.val, 4), (y.val, 4)]
  | .drw x y n => [(x.val, 4), (y.val, 4), (n.toNat, 4)]
  | .skp x | .sknp x | .ldFromDt x | .waitKey x | .ldDt x | .ldSt x | .addI x | .ldFont x | .bcd x | .storeRegs x
  | .loadRegs x => [(x.val, 4)]

/-- A value fits a field of so many bits (30_encoding.md R72). -/
def fitsField (value width : Nat) : Bool := decide (value < 2 ^ width)

/-- Every operand fits its field. The field types of `Instr` make this hold of every term (every opcode of a row is
an instruction, 30_encoding.md R73), so no term of `Instr` is refused; `Laws.Fits` proves it per constructor. -/
def Instr.wellFormed (i : Instr) : Bool := i.operands.all fun f => fitsField f.1 f.2

/-- The key code of a `KEY` event names a key: 0 to 15 (60_exceptions.md R182). -/
def keyCodeOk (k : Int) : Bool := decide (0 ≤ k ∧ k ≤ 15)

/-- A program image fits memory above 0x200: at most 3584 bytes (00_scope.md R4, 70_reset_and_hazards.md R201). -/
def imageFits (bytes : List Byte) : Bool := decide (bytes.length ≤ Config.maxImage)

end Sys2Proof
end

