-- ==== Sys2Proof/Decode.lean ====
section
/-! DEFINITION. The decoder, total on any bytes, and after it the encoder, both from 30_encoding.md. -/

namespace Sys2Proof

/-- What the decoder answers for an opcode (30_encoding.md R73). -/
inductive Decoded where
  /-- one of the 34 instructions of R74 -/
  | instr (i : Instr)
  /-- `UNKNOWN`: no row of R74 matches (R75) -/
  | unknown (opcode : Word)
  /-- fewer than two bytes were given; no fetch of the machine does that (20_memory.md R51) -/
  | short
deriving DecidableEq, Repr

/-- Two bytes as an opcode, big-endian: `mem[pc] * 256 + mem[pc + 1]` (20_memory.md R54). -/
def wordOfBytes (hi lo : Byte) : Word := BitVec.ofNat 16 (hi.toNat * 256 + lo.toNat)

/-- The bytes of an opcode as they lie in memory, the high byte at the lower address (20_memory.md R54). -/
def bytesOfWord (w : Word) : List Byte := [w.extractLsb' 8 8, w.extractLsb' 0 8]

/-- `family = opcode[15:12]` (30_encoding.md R72). -/
def fieldFamily (w : Word) : Nat := w.toNat / 0x1000

/-- `X = opcode[11:8]` (30_encoding.md R72). -/
def fieldX (w : Word) : Reg := ⟨w.toNat / 0x100 % 16, Nat.mod_lt _ (by decide)⟩

/-- `Y = opcode[7:4]` (30_encoding.md R72). -/
def fieldY (w : Word) : Reg := ⟨w.toNat / 0x10 % 16, Nat.mod_lt _ (by decide)⟩

/-- `N = opcode[3:0]` (30_encoding.md R72). -/
def fieldN (w : Word) : Imm4 := BitVec.ofNat 4 w.toNat

/-- `NN = opcode[7:0]` (30_encoding.md R72). -/
def fieldNN (w : Word) : Byte := BitVec.ofNat 8 w.toNat

/-- `NNN = opcode[11:0]` (30_encoding.md R72). -/
def fieldNNN (w : Word) : Imm12 := BitVec.ofNat 12 w.toNat

/-- Family 0x0: every fixed digit must match, so only two opcodes are instructions (30_encoding.md R73, R75, D6). -/
def decodeFamily0 (w : Word) : Decoded :=
  match w.toNat % 0x1000 with
  | 0x0E0 => .instr .cls
  | 0x0EE => .instr .ret
  | _ => .unknown w

/-- Family 0x8, by its low digit (30_encoding.md R74 rows 10 to 18, R75). -/
def decodeFamily8 (w : Word) : Decoded :=
  match w.toNat % 0x10 with
  | 0x0 => .instr (.ldReg (fieldX w) (fieldY w))
  | 0x1 => .instr (.orReg (fieldX w) (fieldY w))
  | 0x2 => .instr (.andReg (fieldX w) (fieldY w))
  | 0x3 => .instr (.xorReg (fieldX w) (fieldY w))
  | 0x4 => .instr (.addReg (fieldX w) (fieldY w))
  | 0x5 => .instr (.subReg (fieldX w) (fieldY w))
  | 0x6 => .instr (.shr (fieldX w) (fieldY w))
  | 0x7 => .instr (.subnReg (fieldX w) (fieldY w))
  | 0xE => .instr (.shl (fieldX w) (fieldY w))
  | _ => .unknown w

/-- Family 0xE, by its low byte (30_encoding.md R74 rows 24 and 25, R75). -/
def decodeFamilyE (w : Word) : Decoded :=
  match w.toNat % 0x100 with
  | 0x9E => .instr (.skp (fieldX w))
  | 0xA1 => .instr (.sknp (fieldX w))
  | _ => .unknown w

/-- Family 0xF, by its low byte (30_encoding.md R74 rows 26 to 34, R75). -/
def decodeFamilyF (w : Word) : Decoded :=
  match w.toNat % 0x100 with
  | 0x07 => .instr (.ldFromDt (fieldX w))
  | 0x0A => .instr (.waitKey (fieldX w))
  | 0x15 => .instr (.ldDt (fieldX w))
  | 0x18 => .instr (.ldSt (fieldX w))
  | 0x1E => .instr (.addI (fieldX w))
  | 0x29 => .instr (.ldFont (fieldX w))
  | 0x33 => .instr (.bcd (fieldX w))
  | 0x55 => .instr (.storeRegs (fieldX w))
  | 0x65 => .instr (.loadRegs (fieldX w))
  | _ => .unknown w

/-- The decoder: the family by `opcode[15:12]`, then the fixed digits of the patterns in that family (30_encoding.md
R73, R74, R75). -/
def decodeWord (w : Word) : Decoded :=
  match fieldFamily w with
  | 0x0 => decodeFamily0 w
  | 0x1 => .instr (.jp (fieldNNN w))
  | 0x2 => .instr (.call (fieldNNN w))
  | 0x3 => .instr (.seImm (fieldX w) (fieldNN w))
  | 0x4 => .instr (.sneImm (fieldX w) (fieldNN w))
  | 0x5 => if w.toNat % 0x10 = 0 then .instr (.seReg (fieldX w) (fieldY w)) else .unknown w
  | 0x6 => .instr (.ldImm (fieldX w) (fieldNN w))
  | 0x7 => .instr (.addImm (fieldX w) (fieldNN w))
  | 0x8 => decodeFamily8 w
  | 0x9 => if w.toNat % 0x10 = 0 then .instr (.sneReg (fieldX w) (fieldY w)) else .unknown w
  | 0xA => .instr (.ldI (fieldNNN w))
  | 0xB => .instr (.jpV0 (fieldNNN w))
  | 0xC => .instr (.rnd (fieldX w) (fieldNN w))
  | 0xD => .instr (.drw (fieldX w) (fieldY w) (fieldN w))
  | 0xE => decodeFamilyE w
  | _ => decodeFamilyF w

/-- Decoding from bytes: every instruction is two bytes (30_encoding.md R70); the rest of the bytes is given back. -/
def decodeBytes : List Byte → Decoded × List Byte
  | hi :: lo :: rest => (decodeWord (wordOfBytes hi lo), rest)
  | rest => (.short, rest)

/-- The instruction in a decoder's answer, if it is one. -/
def Decoded.toOption : Decoded → Option Instr
  | .instr i => some i
  | .unknown _ => none
  | .short => none

/-- The instruction the decoder reads from an opcode given as the opcode table numbers its bits (bit 0 the least
significant bit of the one 16-bit word, 30_encoding.md R71); bits from `nbits` up are 0. -/
def decodeTableWord (nbits w : Nat) : Option Instr :=
  (decodeBytes (bytesOfWord (BitVec.ofNat 16 (w % 2 ^ nbits)))).1.toOption

/-! The encoder, from the formats of 30_encoding.md R71 and the match values of R74. -/

/-- Format `NNN`: a family digit and a 12-bit immediate. -/
def encodeNNN (family : Nat) (nnn : Imm12) : Word := BitVec.ofNat 16 (family * 0x1000 + nnn.toNat)

/-- Format `XNN`: a family digit, a register and an 8-bit immediate. -/
def encodeXNN (family : Nat) (x : Reg) (nn : Byte) : Word :=
  BitVec.ofNat 16 (family * 0x1000 + x.val * 0x100 + nn.toNat)

/-- Formats `XY` and `XYN`: a family digit, two registers and a low digit. -/
def encodeXYN (family : Nat) (x y : Reg) (n : Nat) : Word :=
  BitVec.ofNat 16 (family * 0x1000 + x.val * 0x100 + y.val * 0x10 + n)

/-- Format `X`: a family digit, a register and a low byte. -/
def encodeX (family : Nat) (x : Reg) (low : Nat) : Word :=
  BitVec.ofNat 16 (family * 0x1000 + x.val * 0x100 + low)

/-- The opcode of an instruction (30_encoding.md R71, R74). -/
def encode : Instr → Word
  | .cls => 0x00E0
  | .ret => 0x00EE
  | .jp nnn => encodeNNN 0x1 nnn
  | .call nnn => encodeNNN 0x2 nnn
  | .seImm x nn => encodeXNN 0x3 x nn
  | .sneImm x nn => encodeXNN 0x4 x nn
  | .seReg x y => encodeXYN 0x5 x y 0x0
  | .ldImm x nn => encodeXNN 0x6 x nn
  | .addImm x nn => encodeXNN 0x7 x nn
  | .ldReg x y => encodeXYN 0x8 x y 0x0
  | .orReg x y => encodeXYN 0x8 x y 0x1
  | .andReg x y => encodeXYN 0x8 x y 0x2
  | .xorReg x y => encodeXYN 0x8 x y 0x3
  | .addReg x y => encodeXYN 0x8 x y 0x4
  | .subReg x y => encodeXYN 0x8 x y 0x5
  | .shr x y => encodeXYN 0x8 x y 0x6
  | .subnReg x y => encodeXYN 0x8 x y 0x7
  | .shl x y => encodeXYN 0x8 x y 0xE
  | .sneReg x y => encodeXYN 0x9 x y 0x0
  | .ldI nnn => encodeNNN 0xA nnn
  | .jpV0 nnn => encodeNNN 0xB nnn
  | .rnd x nn => encodeXNN 0xC x nn
  | .drw x y n => encodeXYN 0xD x y n.toNat
  | .skp x => encodeX 0xE x 0x9E
  | .sknp x => encodeX 0xE x 0xA1
  | .ldFromDt x => encodeX 0xF x 0x07
  | .waitKey x => encodeX 0xF x 0x0A
  | .ldDt x => encodeX 0xF x 0x15
  | .ldSt x => encodeX 0xF x 0x18
  | .addI x => encodeX 0xF x 0x1E
  | .ldFont x => encodeX 0xF x 0x29
  | .bcd x => encodeX 0xF x 0x33
  | .storeRegs x => encodeX 0xF x 0x55
  | .loadRegs x => encodeX 0xF x 0x65

/-- The primary name of an instruction: its row's hex pattern (30_encoding.md R74, R78). -/
def Instr.pattern : Instr → String
  | .cls => "00E0"
  | .ret => "00EE"
  | .jp _ => "1NNN"
  | .call _ => "2NNN"
  | .seImm _ _ => "3XNN"
  | .sneImm _ _ => "4XNN"
  | .seReg _ _ => "5XY0"
  | .ldImm _ _ => "6XNN"
  | .addImm _ _ => "7XNN"
  | .ldReg _ _ => "8XY0"
  | .orReg _ _ => "8XY1"
  | .andReg _ _ => "8XY2"
  | .xorReg _ _ => "8XY3"
  | .addReg _ _ => "8XY4"
  | .subReg _ _ => "8XY5"
  | .shr _ _ => "8XY6"
  | .subnReg _ _ => "8XY7"
  | .shl _ _ => "8XYE"
  | .sneReg _ _ => "9XY0"
  | .ldI _ => "ANNN"
  | .jpV0 _ => "BNNN"
  | .rnd _ _ => "CXNN"
  | .drw _ _ _ => "DXYN"
  | .skp _ => "EX9E"
  | .sknp _ => "EXA1"
  | .ldFromDt _ => "FX07"
  | .waitKey _ => "FX0A"
  | .ldDt _ => "FX15"
  | .ldSt _ => "FX18"
  | .addI _ => "FX1E"
  | .ldFont _ => "FX29"
  | .bcd _ => "FX33"
  | .storeRegs _ => "FX55"
  | .loadRegs _ => "FX65"

/-- The opcode map of 30_encoding.md R74: pattern, mask, match. An opcode `w` is the row's instruction when
`w & mask == match`. Neither the decoder nor the encoder reads it: it is what both are held against. -/
def opcodeMap : List (String × Word × Word) :=
  [("00E0", 0xFFFF, 0x00E0), ("00EE", 0xFFFF, 0x00EE), ("1NNN", 0xF000, 0x1000), ("2NNN", 0xF000, 0x2000),
   ("3XNN", 0xF000, 0x3000), ("4XNN", 0xF000, 0x4000), ("5XY0", 0xF00F, 0x5000), ("6XNN", 0xF000, 0x6000),
   ("7XNN", 0xF000, 0x7000)] ++
  [("8XY0", 0xF00F, 0x8000), ("8XY1", 0xF00F, 0x8001), ("8XY2", 0xF00F, 0x8002), ("8XY3", 0xF00F, 0x8003),
   ("8XY4", 0xF00F, 0x8004), ("8XY5", 0xF00F, 0x8005), ("8XY6", 0xF00F, 0x8006), ("8XY7", 0xF00F, 0x8007),
   ("8XYE", 0xF00F, 0x800E)] ++
  [("9XY0", 0xF00F, 0x9000), ("ANNN", 0xF000, 0xA000), ("BNNN", 0xF000, 0xB000), ("CXNN", 0xF000, 0xC000),
   ("DXYN", 0xF000, 0xD000), ("EX9E", 0xF0FF, 0xE09E), ("EXA1", 0xF0FF, 0xE0A1)] ++
  [("FX07", 0xF0FF, 0xF007), ("FX0A", 0xF0FF, 0xF00A), ("FX15", 0xF0FF, 0xF015), ("FX18", 0xF0FF, 0xF018),
   ("FX1E", 0xF0FF, 0xF01E), ("FX29", 0xF0FF, 0xF029), ("FX33", 0xF0FF, 0xF033), ("FX55", 0xF0FF, 0xF055),
   ("FX65", 0xF0FF, 0xF065)]

end Sys2Proof
end

