-- ==== Sys2Proof/Machine/State.lean ====
section
/-! DEFINITION. The state of the machine as plain data (10_state.md R20 to R36), its value after reset (R40), and the
reasons a step of the host's interface could stop. -/

namespace Sys2Proof.Machine

/-- The framebuffer: 32 rows of 64 pixels, row 0 first, column 0 first (10_state.md R31). -/
abbrev Frame := Vector (Vector Bool 64) 32

/-- Memory: the bytes that differ from their reset value, by address, in the one form `Memory.wf` describes
(20_memory.md R50). An unlisted address reads as `Config.resetByte` of it. -/
abbrev Memory := List Host.Cell

/-- The rest of a memory list from address `lo` on: addresses strictly rising, all below 4096, and no entry equal to
what an unlisted address reads as. -/
def Memory.wfFrom : Nat → Memory → Bool
  | _, [] => true
  | lo, (a, b) :: m =>
    decide (lo ≤ a) && decide (a < Config.memSize) && (b != Config.resetByte a) && Memory.wfFrom (a + 1) m

/-- The canonical form of memory: equal memories are equal lists. -/
def Memory.wf (m : Memory) : Bool := Memory.wfFrom 0 m

/-- `fault_cause` (10_state.md R34, 60_exceptions.md R170): code 0, 1 or 2. -/
inductive FaultCause where
  /-- code 0: no fault -/
  | noFault
  /-- code 1: the fetch left memory -/
  | fetchOutOfBounds
  /-- code 2: a data access left memory -/
  | dataOutOfBounds
deriving DecidableEq, Repr

/-- Everything the spec gives the machine between two events, and one counter of the model's own. -/
structure State where
  /-- `V[0]` to `V[15]` (10_state.md R20, R21) -/
  v : Vector Byte 16
  /-- `I` (10_state.md R22) -/
  i : Word
  /-- the address of the next instruction to fetch (10_state.md R23) -/
  pc : Word
  /-- the next free stack slot, 0 to 16 (10_state.md R24, D16) -/
  sp : Fin 17
  /-- the return stack (10_state.md R24) -/
  stack : Vector Word 16
  /-- `DT` (10_state.md R27) -/
  dt : Byte
  /-- `ST` (10_state.md R28) -/
  st : Byte
  /-- the key flags (10_state.md R29) -/
  key : Vector Bool 16
  /-- the framebuffer (10_state.md R31) -/
  fb : Frame
  /-- the 4096 bytes of memory (10_state.md R33) -/
  mem : Memory
  /-- the fault latch: is the core halted (10_state.md R34) -/
  halted : Bool
  /-- the fault latch: why (10_state.md R34) -/
  faultCause : FaultCause
  /-- the fault latch: the address that was out of range (10_state.md R34) -/
  faultInfo : Word
  /-- the fault latch: the address of the instruction whose cycle faulted (10_state.md R34) -/
  faultPc : Word
  /-- the model's own: how many random bytes have been drawn, so that each draw is a fresh free value (log entry 2) -/
  draws : Nat
deriving DecidableEq, Repr

/-- The state right after `RESET` (10_state.md R40). DESIGN CHOICE: `draws` 0, the model's own field (log entry 2). -/
def State.reset : State where
  v := Vector.replicate 16 0
  i := 0
  pc := 0x200
  sp := 0
  stack := Vector.replicate 16 0
  dt := 0
  st := 0
  key := Vector.replicate 16 false
  fb := Vector.replicate 32 (Vector.replicate 64 false)
  mem := []
  halted := false
  faultCause := .noFault
  faultInfo := 0
  faultPc := 0
  draws := 0

/-- Why a step of the host's interface could stop the machine for good. It has no constructor: the spec describes both
fatal faults as an entry into the halted state (60_exceptions.md R172), which is a next state with the fault latch set, and
a halted core still answers every `STEP` (40_execute_cycle.md R95). So no step stops, which is neither safe nor unsafe
beyond what the latch's own log entry says (log entry 6). -/
inductive Fault
deriving DecidableEq, Repr

/-- Why the model would give an instruction no meaning. -/
inductive Refusal where
  /-- Raised only by an arm of `exec` whose instruction has no meaning yet; no arm does now. Safe: nothing can be proved
  of what a refused instruction does. -/
  | notModelled (mnemonic : String)
deriving DecidableEq, Repr

/-- The outcome of a step. -/
abbrev Result := Host.Outcome State Fault Refusal

end Sys2Proof.Machine
end

