-- ==== Sys2Proof/Machine/Ops.lean ====
section
/-! DEFINITION. The named operations over the state: registers, memory, the program counter, the stack, the keys, the
framebuffer, taking a fatal fault and leaving it. -/

namespace Sys2Proof.Machine

/-! ## Registers -/

/-- `V[x]` (10_state.md R20). -/
def getReg (s : State) (x : Reg) : Byte := s.v[x.val]

/-- `V[x] <- b` (10_state.md R20). -/
def setReg (s : State) (x : Reg) (b : Byte) : State := { s with v := s.v.set x.val b }

/-- The bytes written to consecutive registers from number `k` on. -/
def setRegsFrom (k : Nat) (v : Vector Byte 16) : List Byte → Vector Byte 16
  | [] => v
  | b :: bs => setRegsFrom (k + 1) (v.setIfInBounds k b) bs

/-- `V[0], V[1], ... <- bs` (44_index_memory.md R145). -/
def loadRegList (s : State) (bs : List Byte) : State := { s with v := setRegsFrom 0 s.v bs }

/-- `V[0]` to `V[x]`, in that order (44_index_memory.md R144). -/
def regList (s : State) (x : Reg) : List Byte := s.v.toList.take (x.val + 1)

/-- `I <- w` (10_state.md R22). -/
def setI (s : State) (w : Word) : State := { s with i := w }

/-! ## Memory -/

/-- The byte at an address (20_memory.md R50): the listed one, else the reset contents. -/
def loadByte : Memory → Nat → Byte
  | [], a => Config.resetByte a
  | (k, c) :: m, a => if k = a then c else loadByte m a

/-- An entry in front of a memory list, left out when it says what an unlisted address reads as. -/
def consCell (a : Nat) (b : Byte) (m : Memory) : Memory := if b = Config.resetByte a then m else (a, b) :: m

/-- One byte stored (20_memory.md R52), in the canonical form. -/
def storeByte : Memory → Nat → Byte → Memory
  | [], a, b => consCell a b []
  | (k, c) :: m, a, b =>
    if a < k then consCell a b ((k, c) :: m)
    else if a = k then consCell a b m
    else (k, c) :: storeByte m a b

/-- `n` bytes from address `a` up (20_memory.md R57). -/
def loadBytes (m : Memory) : Nat → Nat → List Byte
  | _, 0 => []
  | a, n + 1 => loadByte m a :: loadBytes m (a + 1) n

/-- Bytes stored from address `a` up, in increasing address order (20_memory.md R57). -/
def storeBytes (m : Memory) : Nat → List Byte → Memory
  | _, [] => m
  | a, b :: bs => storeBytes (storeByte m a b) (a + 1) bs

/-! ## The program counter -/

/-- `pc <- pc + 2`, on 16 bits (40_execute_cycle.md R91, 10_state.md R23). -/
def advance (s : State) : State := { s with pc := s.pc + 2 }

/-- `pc <- target`. -/
def setPc (s : State) (target : Word) : State := { s with pc := target }

/-- `pc <- pc - 2`, the rewind of `FX0A` (46_keys_timers.md R163). -/
def rewind (s : State) : State := { s with pc := s.pc - 2 }

/-- A further `pc <- pc + 2` when the condition holds (42_skips.md, common facts). -/
def skipIf (c : Bool) (s : State) : State := if c then advance s else s

/-! ## The return stack -/

/-- `push(a)`: dropped when the stack is full (10_state.md R25). -/
def push (s : State) (a : Word) : State :=
  if h : s.sp.val < 16 then
    { s with stack := s.stack.set s.sp.val a, sp := ⟨s.sp.val + 1, Nat.succ_lt_succ h⟩ }
  else s

/-- The value `pop()` returns: the top slot, or the sentinel 0 (10_state.md R26). -/
def topOfStack (s : State) : Word :=
  if h : 0 < s.sp.val then s.stack[s.sp.val - 1] else 0

/-- The state `pop()` leaves: `sp` one lower, the slot kept; an empty stack stays empty (10_state.md R26). -/
def dropTop (s : State) : State :=
  { s with sp := ⟨s.sp.val - 1, Nat.lt_of_le_of_lt (Nat.sub_le _ _) s.sp.isLt⟩ }

/-! ## Keys and sound -/

/-- `is_key_pressed(k)`, `k` any integer: false outside 0 to 15 (10_state.md R30). The instructions ask it of a byte, the
host of any integer (00_scope.md R9). -/
def isKeyPressed (s : State) (k : Int) : Bool :=
  if h : 0 ≤ k ∧ k < 16 then s.key[k.toNat]'((Int.toNat_lt h.1).2 h.2) else false

/-- The smallest key code from `k` on, within `n` codes, that is pressed. -/
def firstKeyFrom (s : State) (k : Nat) : Nat → Option Nat
  | 0 => none
  | n + 1 => if isKeyPressed s k then some k else firstKeyFrom s (k + 1) n

/-- The smallest pressed key, if one is (46_keys_timers.md R163). -/
def lowestKey (s : State) : Option Nat := firstKeyFrom s 0 16

/-- The output `sound_on`: `ST` is not 0 (60_exceptions.md R181, D15). -/
def soundOn (s : State) : Bool := s.st != 0

/-- The signal to stop a tone: `sound_on` goes from true to false (60_exceptions.md R181). -/
def toneStops (before after : State) : Bool := soundOn before && !soundOn after

/-! ## The framebuffer -/

/-- `fb[x mod 64, y mod 32]` (10_state.md R32). -/
def pixelAt (f : Frame) (x y : Nat) : Bool :=
  (f[y % 32]'(Nat.mod_lt _ (by decide)))[x % 64]'(Nat.mod_lt _ (by decide))

/-- The frame with the pixel `fb[x mod 64, y mod 32]` toggled (45_display.md R151). -/
def togglePixel (f : Frame) (x y : Nat) : Frame :=
  f.set (y % 32)
    ((f[y % 32]'(Nat.mod_lt _ (by decide))).set (x % 64) (!pixelAt f x y) (Nat.mod_lt _ (by decide)))
    (Nat.mod_lt _ (by decide))

/-- Every pixel off (45_display.md R150). -/
def clearFrame : Frame := Vector.replicate 32 (Vector.replicate 64 false)

/-- The pixels under the set bits of one sprite row, the most significant bit first (45_display.md R151). -/
def rowCells (x y : Nat) (b : Byte) : List (Nat × Nat) :=
  (List.range 8).filterMap fun c => if b.getLsbD (7 - c) then some ((x + c) % 64, y % 32) else none

/-- The pixels under the set bits of a sprite, row by row (45_display.md R151). -/
def spriteCells (x y : Nat) : List Byte → List (Nat × Nat)
  | [] => []
  | b :: bs => rowCells x y b ++ spriteCells x (y + 1) bs

/-- One step of the compositor: note a collision, toggle the pixel (45_display.md R151). -/
def drawCell (fc : Frame × Bool) (p : Nat × Nat) : Frame × Bool :=
  (togglePixel fc.1 p.1 p.2, fc.2 || pixelAt fc.1 p.1 p.2)

/-- `draw_sprite(x, y, height, rows)` with `height` the number of rows: the new frame and the collision (45_display.md
R151). -/
def drawSprite (f : Frame) (x y : Nat) (rows : List Byte) : Frame × Bool :=
  (spriteCells x y rows).foldl drawCell (f, false)

/-! ## The fetch -/

/-- The fetch at `pc` leaves memory: `pc` > 4094 (20_memory.md R51, 40_execute_cycle.md R90). -/
def fetchFaults (s : State) : Bool := decide (4094 < s.pc.toNat)

/-- The opcode at `pc`, two bytes, big-endian (20_memory.md R54). -/
def fetchWord (s : State) : Word := wordOfBytes (loadByte s.mem s.pc.toNat) (loadByte s.mem (s.pc.toNat + 1))

/-! ## Fatal faults: entry and the only way out -/

/-- The numeric code of a fault (60_exceptions.md R170, D5). -/
def faultCode : FaultCause → Nat
  | .noFault => 0
  | .fetchOutOfBounds => 1
  | .dataOutOfBounds => 2

/-- `raise F(info)`, applied to the state BEFORE the `STEP`: every write of the `STEP` is discarded, the advance of `pc`
included, and the latch is set (60_exceptions.md R172). -/
def raiseFault (c : FaultCause) (info : Nat) (s : State) : State :=
  { s with halted := true, faultCause := c, faultInfo := BitVec.ofNat 16 info, faultPc := s.pc }

/-- The outcome of an instruction that touches `len` bytes of memory from `I` up: `done` when the whole range lies in
memory, else `DataOutOfBounds` with the highest address of the range and nothing else (60_exceptions.md R170, R174;
20_memory.md R51, R52). -/
def withRange (s : State) (len : Nat) (done : State) : Result :=
  if 1 ≤ len ∧ 4095 < s.i.toNat + len - 1 then
    .next (raiseFault .dataOutOfBounds (s.i.toNat + len - 1) s)
  else .next done

/-- `RESET` in any state, the only way to leave the halted state (70_reset_and_hazards.md R200, 60_exceptions.md R175).
The draws go on counting, so that a new session does not draw the old one's bytes again (log entry 2). -/
def resetMachine (s : State) : State := { State.reset with draws := s.draws }

end Sys2Proof.Machine
end

