-- ==== Sys2Proof/Machine/Cycle.lean ====
section
/-! DEFINITION. The execute cycle of one `STEP` (40_execute_cycle.md R90): the halted core, the fetch check, the fetch,
the decode, the unknown opcode. -/

namespace Sys2Proof.Machine

/-- An unknown opcode: reported (see `stepReport`) and otherwise a no-op, `pc` advanced (40_execute_cycle.md R94). -/
def passUnknown (s : State) : State := advance s

/-- One `STEP` over a way to run an instruction: nothing on a halted core (R95), `FetchOutOfBounds` when `pc` > 4094,
else fetch, decode and run (40_execute_cycle.md R90). `run` gets the state BEFORE the advance: it makes the advance of
R91 itself, so that a fault can discard it (60_exceptions.md R172). `short` is never met: a fetch gives two bytes. -/
def runCycle (run : Instr → State → Result) (s : State) : Result :=
  if s.halted then .next s
  else if fetchFaults s then .next (raiseFault .fetchOutOfBounds s.pc.toNat s)
  else
    match decodeWord (fetchWord s) with
    | .instr i => run i s
    | .unknown _ => .next (passUnknown s)
    | .short => .next (passUnknown s)

/-- The bytes of an opcode placed at `pc`, the high byte first; nothing where no fetch can read (`pc` > 4094). -/
def placeOpcode (s : State) (w : Word) : State :=
  if fetchFaults s then s else { s with mem := storeBytes s.mem s.pc.toNat (bytesOfWord w) }

end Sys2Proof.Machine
end

