-- ==== Sys2Proof/Machine/Operands.lean ====
section
/-! DEFINITION. The operand forms: immediates, the index sum, the font address, the decimal digits, the random draw. -/

namespace Sys2Proof.Machine

/-- `zext_16(NNN)` (30_encoding.md R72). -/
def zext16 (nnn : Imm12) : Word := nnn.setWidth 16

/-- The target of `BNNN`: `zext_16(NNN) + zext_16(V[0])`, a 16-bit sum (41_control_transfer.md R103). -/
def offsetTarget (s : State) (nnn : Imm12) : Word := zext16 nnn + (getReg s 0).setWidth 16

/-- The address of a font digit: `0x050 + 5 * v`, the whole 8-bit value (44_index_memory.md R142). -/
def fontAddress (v : Byte) : Word := BitVec.ofNat 16 (Config.fontBase + 5 * v.toNat)

/-- The integer sum `I + V[X]` of `FX1E`, before truncation (44_index_memory.md R141). -/
def indexSum (s : State) (x : Reg) : Nat := s.i.toNat + (getReg s x).toNat

/-- What `FX1E` stores: the low 12 bits of the sum (44_index_memory.md R141, D1; log entry 4). -/
def truncatedIndex (sum : Nat) : Word := BitVec.ofNat 16 (sum % Config.indexModulus)

/-- The decimal digits of a byte: hundreds, tens, ones (44_index_memory.md R143). -/
def decimalDigits (v : Byte) : List Byte :=
  [BitVec.ofNat 8 (v.toNat / 100), BitVec.ofNat 8 (v.toNat / 10 % 10), BitVec.ofNat 8 (v.toNat % 10)]

/-- The sprite of `DXYN`: `n` bytes from `I` up (45_display.md R152). -/
def spriteRows (s : State) (n : Imm4) : List Byte := loadBytes s.mem s.i.toNat n.toNat

end Sys2Proof.Machine
end

