-- ==== Sys2Proof/Machine/Flags.lean ====
section
/-! DEFINITION. The flag values (10_state.md R21, 43_alu.md R133) and the order of a flag-writing instruction's writes
(43_alu.md R120). -/

namespace Sys2Proof.Machine

/-- A flag value: the byte 1 or the byte 0 (10_state.md R21). -/
def flagByte (c : Bool) : Byte := if c then 1 else 0

/-- Carry of an addition: the unsigned sum exceeds 255 (43_alu.md R133). -/
def carryFlag (a b : Byte) : Byte := flagByte (decide (255 < a.toNat + b.toNat))

/-- No borrow of `a - b`: `a >= b` (43_alu.md R133). -/
def noBorrowFlag (a b : Byte) : Byte := flagByte (decide (b.toNat ≤ a.toNat))

/-- The bit a right shift moves out (43_alu.md R129). -/
def shrFlag (a : Byte) : Byte := flagByte (a.getLsbD 0)

/-- The bit a left shift moves out (43_alu.md R131). -/
def shlFlag (a : Byte) : Byte := flagByte (a.getLsbD 7)

/-- Index overflow: the sum exceeds 0xFFF (44_index_memory.md R141). -/
def indexFlag (sum : Nat) : Byte := flagByte (decide (0xFFF < sum))

/-- The writes of a flag-writing register instruction, its operands already read: the flag to VF first, the result to
`V[x]` second, so the result remains when `x` is VF (43_alu.md R120, D3; log entry 3). -/
def writeFlagThenReg (s : State) (flag : Byte) (x : Reg) (result : Byte) : State := setReg (setReg s vf flag) x result

end Sys2Proof.Machine
end

