-- ==== Sys2Proof/Machine/Alu.lean ====
section
/-! DEFINITION. Register load, arithmetic, logic, shift and random: `6XNN`, `7XNN`, `8XY0` to `8XY7`, `8XYE`, `CXNN`
(43_alu.md). -/

namespace Sys2Proof.Machine

/-- `6XNN`, LD Vx, nn (43_alu.md R121). -/
def execLdImm (x : Reg) (nn : Byte) (s : State) : Result := .next (setReg (advance s) x nn)

/-- `7XNN`, ADD Vx, nn: no flag (43_alu.md R122). -/
def execAddImm (x : Reg) (nn : Byte) (s : State) : Result := .next (setReg (advance s) x (getReg s x + nn))

/-- `8XY0`, LD Vx, Vy (43_alu.md R123). -/
def execLdReg (x y : Reg) (s : State) : Result := .next (setReg (advance s) x (getReg s y))

/-- `8XY1`, OR Vx, Vy: VF is not reset (43_alu.md R124). -/
def execOrReg (x y : Reg) (s : State) : Result := .next (setReg (advance s) x (getReg s x ||| getReg s y))

/-- `8XY2`, AND Vx, Vy (43_alu.md R125). -/
def execAndReg (x y : Reg) (s : State) : Result := .next (setReg (advance s) x (getReg s x &&& getReg s y))

/-- `8XY3`, XOR Vx, Vy (43_alu.md R126). -/
def execXorReg (x y : Reg) (s : State) : Result := .next (setReg (advance s) x (getReg s x ^^^ getReg s y))

/-- `8XY4`, ADD Vx, Vy: VF is the carry (43_alu.md R127). -/
def execAddReg (x y : Reg) (s : State) : Result :=
  .next (writeFlagThenReg (advance s) (carryFlag (getReg s x) (getReg s y)) x (getReg s x + getReg s y))

/-- `8XY5`, SUB Vx, Vy: VF is 1 when there is no borrow (43_alu.md R128). -/
def execSubReg (x y : Reg) (s : State) : Result :=
  .next (writeFlagThenReg (advance s) (noBorrowFlag (getReg s x) (getReg s y)) x (getReg s x - getReg s y))

/-- `8XY6`, SHR Vx: the Y field is ignored; VF is the bit shifted out (43_alu.md R129, 30_encoding.md R76). -/
def execShr (x _y : Reg) (s : State) : Result :=
  .next (writeFlagThenReg (advance s) (shrFlag (getReg s x)) x (getReg s x >>> 1))

/-- `8XY7`, SUBN Vx, Vy: `V[Y] - V[X]` into `V[X]` (43_alu.md R130). -/
def execSubnReg (x y : Reg) (s : State) : Result :=
  .next (writeFlagThenReg (advance s) (noBorrowFlag (getReg s y) (getReg s x)) x (getReg s y - getReg s x))

/-- `8XYE`, SHL Vx: the Y field is ignored; VF is the bit shifted out (43_alu.md R131, 30_encoding.md R76). -/
def execShl (x _y : Reg) (s : State) : Result :=
  .next (writeFlagThenReg (advance s) (shlFlag (getReg s x)) x (getReg s x <<< 1))

/-- `CXNN` with a given random byte, the `rnd` of the `STEP` event; the draw is counted (43_alu.md R132, D7). -/
def rndWith (random : Byte) (x : Reg) (nn : Byte) (s : State) : State :=
  { setReg (advance s) x (random &&& nn) with draws := s.draws + 1 }

/-- `CXNN`, RND Vx, nn: the random byte is a free value, fresh at every draw (43_alu.md R132; log entry 2). -/
def execRnd (x : Reg) (nn : Byte) (s : State) : Result := .next (rndWith (Config.randomByte s.draws) x nn s)

end Sys2Proof.Machine
end

