-- ==== Sys2Proof/Machine/Control.lean ====
section
/-! DEFINITION. Control transfer: `00EE`, `1NNN`, `2NNN`, `BNNN` (41_control_transfer.md). -/

namespace Sys2Proof.Machine

/-- `00EE`, RET: `pc <- pop()` (41_control_transfer.md R100). -/
def execRet (s : State) : Result := .next (setPc (dropTop s) (topOfStack s))

/-- `1NNN`, JP nnn: `pc <- zext_16(NNN)` (41_control_transfer.md R101). -/
def execJp (nnn : Imm12) (s : State) : Result := .next (setPc s (zext16 nnn))

/-- `2NNN`, CALL nnn: `push(pc)` with the advanced `pc`, then `pc <- zext_16(NNN)` (41_control_transfer.md R102). -/
def execCall (nnn : Imm12) (s : State) : Result :=
  .next (setPc (push (advance s) (advance s).pc) (zext16 nnn))

/-- `BNNN`, JP V0, nnn: `pc <- NNN + V[0]`, not reduced to 12 bits (41_control_transfer.md R103). -/
def execJpV0 (nnn : Imm12) (s : State) : Result := .next (setPc s (offsetTarget s nnn))

end Sys2Proof.Machine
end

