-- ==== Sys2Proof/Machine/Display.lean ====
section
/-! DEFINITION. The display: `00E0`, `DXYN` (45_display.md). -/

namespace Sys2Proof.Machine

/-- `00E0`, CLS (45_display.md R150). -/
def execCls (s : State) : Result := .next { advance s with fb := clearFrame }

/-- `DXYN` once its range check has passed: the coordinates are read first, then the sprite is drawn and VF is the
collision (45_display.md R152). The reset of VF to 0 first is overwritten in the same event. -/
def drawAt (s : State) (x y : Reg) (rows : List Byte) : State :=
  let drawn := drawSprite s.fb (getReg s x).toNat (getReg s y).toNat rows
  { setReg (advance s) vf (flagByte drawn.2) with fb := drawn.1 }

/-- `DXYN`, DRW Vx, Vy, n: `n` rows from `I`, or `DataOutOfBounds` (45_display.md R152). -/
def execDrw (x y : Reg) (n : Imm4) (s : State) : Result := withRange s n.toNat (drawAt s x y (spriteRows s n))

end Sys2Proof.Machine
end

