-- ==== Sys2Proof/Machine/Index.lean ====
section
/-! DEFINITION. The index register and memory: `ANNN`, `FX1E`, `FX29`, `FX33`, `FX55`, `FX65` (44_index_memory.md). -/

namespace Sys2Proof.Machine

/-- `ANNN`, LD I, nnn (44_index_memory.md R140). -/
def execLdI (nnn : Imm12) (s : State) : Result := .next (setI (advance s) (zext16 nnn))

/-- `FX1E`, ADD I, Vx: the sum is read first, VF is 1 when it passed 0xFFF, `I` keeps its low 12 bits
(44_index_memory.md R141). -/
def execAddI (x : Reg) (s : State) : Result :=
  .next (setI (setReg (advance s) vf (indexFlag (indexSum s x))) (truncatedIndex (indexSum s x)))

/-- `FX29`, LD F, Vx (44_index_memory.md R142). -/
def execLdFont (x : Reg) (s : State) : Result := .next (setI (advance s) (fontAddress (getReg s x)))

/-- `FX33`, LD B, Vx: three digits at `I`, or `DataOutOfBounds` (44_index_memory.md R143). -/
def execBcd (x : Reg) (s : State) : Result :=
  withRange s 3 { advance s with mem := storeBytes s.mem s.i.toNat (decimalDigits (getReg s x)) }

/-- `FX55`, LD [I], Vx: `V[0]` to `V[X]` at `I`, or `DataOutOfBounds` (44_index_memory.md R144). -/
def execStoreRegs (x : Reg) (s : State) : Result :=
  withRange s (x.val + 1) { advance s with mem := storeBytes s.mem s.i.toNat (regList s x) }

/-- `FX65`, LD Vx, [I]: `V[0]` to `V[X]` from `I`, or `DataOutOfBounds` (44_index_memory.md R145). -/
def execLoadRegs (x : Reg) (s : State) : Result :=
  withRange s (x.val + 1) (loadRegList (advance s) (loadBytes s.mem s.i.toNat (x.val + 1)))

end Sys2Proof.Machine
end

