-- ==== Sys2Proof/Machine/Keys.lean ====
section
/-! DEFINITION. Keys and timers: `EX9E`, `EXA1`, `FX07`, `FX0A`, `FX15`, `FX18` (46_keys_timers.md). -/

namespace Sys2Proof.Machine

/-- `EX9E`, SKP Vx: the key number is the whole value of `V[X]` (46_keys_timers.md R160). -/
def execSkp (x : Reg) (s : State) : Result := .next (skipIf (isKeyPressed s (getReg s x).toNat) (advance s))

/-- `EXA1`, SKNP Vx (46_keys_timers.md R161). -/
def execSknp (x : Reg) (s : State) : Result := .next (skipIf (!isKeyPressed s (getReg s x).toNat) (advance s))

/-- `FX07`, LD Vx, DT (46_keys_timers.md R162). -/
def execLdFromDt (x : Reg) (s : State) : Result := .next (setReg (advance s) x s.dt)

/-- `FX0A`, LD Vx, K: with no key down the advance is taken back and the same instruction is fetched again; else `V[X]`
gets the smallest pressed key (46_keys_timers.md R163). -/
def execWaitKey (x : Reg) (s : State) : Result :=
  match lowestKey s with
  | none => .next (rewind (advance s))
  | some k => .next (setReg (advance s) x (BitVec.ofNat 8 k))

/-- `FX15`, LD DT, Vx (46_keys_timers.md R164). -/
def execLdDt (x : Reg) (s : State) : Result := .next { advance s with dt := getReg s x }

/-- `FX18`, LD ST, Vx (46_keys_timers.md R165). -/
def execLdSt (x : Reg) (s : State) : Result := .next { advance s with st := getReg s x }

end Sys2Proof.Machine
end

