-- ==== Sys2Proof/Machine/Skips.lean ====
section
/-! DEFINITION. The skips that compare registers: `3XNN`, `4XNN`, `5XY0`, `9XY0` (42_skips.md). -/

namespace Sys2Proof.Machine

/-- `3XNN`, SE Vx, nn (42_skips.md R110). -/
def execSeImm (x : Reg) (nn : Byte) (s : State) : Result := .next (skipIf (getReg s x == nn) (advance s))

/-- `4XNN`, SNE Vx, nn (42_skips.md R111). -/
def execSneImm (x : Reg) (nn : Byte) (s : State) : Result := .next (skipIf (getReg s x != nn) (advance s))

/-- `5XY0`, SE Vx, Vy (42_skips.md R112). -/
def execSeReg (x y : Reg) (s : State) : Result := .next (skipIf (getReg s x == getReg s y) (advance s))

/-- `9XY0`, SNE Vx, Vy (42_skips.md R113). -/
def execSneReg (x y : Reg) (s : State) : Result := .next (skipIf (getReg s x != getReg s y) (advance s))

end Sys2Proof.Machine
end

