-- ==== Sys2Proof/Machine/Step.lean ====
section
/-! DEFINITION. One step of the machine, the `STEP` event, and the host's way to place an instruction. -/

namespace Sys2Proof.Machine

/-- One `STEP` event (40_execute_cycle.md R90); `CXNN` draws a free value for the event's `rnd` (log entry 2). -/
def step (s : State) : Host.Outcome State Fault Refusal := runCycle exec s

/-- `s` with the instruction whose bits are `w` (bits from `nbits` up are 0) where the next fetch reads, and the core not
halted, since a halted core does not fetch (log entry 9). -/
def State.withFetchWord (s : State) (nbits w : Nat) : State :=
  { placeOpcode s (BitVec.ofNat 16 (w % 2 ^ nbits)) with halted := false }

end Sys2Proof.Machine
end

