-- ==== Sys2Proof/Machine/Events.lean ====
section
/-! DEFINITION. The five host events (00_scope.md R7) and the named outcomes an event carries beside its end state
(60_exceptions.md R171). -/

namespace Sys2Proof.Machine

/-- The event alphabet (00_scope.md R7). -/
inductive Event where
  /-- `RESET` (70_reset_and_hazards.md R200) -/
  | reset
  /-- `LOAD(bytes)` (70_reset_and_hazards.md R201) -/
  | load (bytes : List Byte)
  /-- `STEP(rnd)` (40_execute_cycle.md R90) -/
  | step (random : Byte)
  /-- `TICK` (60_exceptions.md R180) -/
  | tick
  /-- `KEY(k, pressed)` (60_exceptions.md R182) -/
  | key (k : Int) (pressed : Bool)
deriving DecidableEq, Repr

/-- An event's effect on a core that is not halted; a halted core ignores it (60_exceptions.md R172, D17). -/
def unlessHalted (s after : State) : State := if s.halted then s else after

/-- `LOAD(bytes)`: the first 3584 bytes from 0x200 up, the rest dropped (70_reset_and_hazards.md R201). -/
def loadImage (bytes : List Byte) (s : State) : State :=
  unlessHalted s { s with mem := storeBytes s.mem Config.start (bytes.take Config.maxImage) }

/-- A timer decremented by one, floored at 0 (60_exceptions.md R180). -/
def countDown (t : Byte) : Byte := if t = 0 then 0 else t - 1

/-- `TICK` (60_exceptions.md R180). -/
def tick (s : State) : State := unlessHalted s { s with dt := countDown s.dt, st := countDown s.st }

/-- `KEY(k, pressed)`; a code outside 0 to 15 is ignored (60_exceptions.md R182). -/
def setKey (k : Int) (pressed : Bool) (s : State) : State :=
  unlessHalted s (if keyCodeOk k then { s with key := s.key.setIfInBounds k.toNat pressed } else s)

/-- An instruction run with a given `rnd`: `CXNN` uses it, every other instruction ignores it (10_state.md R35). -/
def execWith (random : Byte) (i : Instr) (s : State) : Result :=
  match i with
  | .rnd x nn => .next (rndWith random x nn s)
  | .cls | .ret | .jp _ | .call _ | .seImm _ _ | .sneImm _ _ | .seReg _ _ | .ldImm _ _ | .addImm _ _ | .ldReg _ _
  | .orReg _ _ | .andReg _ _ | .xorReg _ _ | .addReg _ _ | .subReg _ _ | .shr _ _ | .subnReg _ _ | .shl _ _
  | .sneReg _ _ | .ldI _ | .jpV0 _ | .drw _ _ _ | .skp _ | .sknp _ | .ldFromDt _ | .waitKey _ | .ldDt _ | .ldSt _
  | .addI _ | .ldFont _ | .bcd _ | .storeRegs _ | .loadRegs _ => exec i s

/-- `STEP(rnd)` with its argument given (40_execute_cycle.md R90). `step` is this at the free value (log entry 2). -/
def stepWith (random : Byte) (s : State) : Result := runCycle (execWith random) s

/-- The end state of an event. -/
def applyEvent (e : Event) (s : State) : Result :=
  match e with
  | .reset => .next (resetMachine s)
  | .load bytes => .next (loadImage bytes s)
  | .step random => stepWith random s
  | .tick => .next (tick s)
  | .key k pressed => .next (setKey k pressed s)

/-- The named outcomes that are no faults (60_exceptions.md R171). -/
inductive Report where
  /-- the diagnostic of an unknown opcode: the opcode and the address it was fetched from (40_execute_cycle.md R94, D8) -/
  | unknownOpcode (opcode pc0 : Word)
  /-- `2NNN` with a full stack -/
  | stackOverflowDropped
  /-- `00EE` with an empty stack -/
  | stackUnderflow
  /-- `KEY` with a code that names no key -/
  | keyIgnored
  /-- `LOAD` of an image that does not fit -/
  | romTruncated
deriving DecidableEq, Repr

/-- The named outcome of an instruction, read off the state before it (60_exceptions.md R171). -/
def instrReport (i : Instr) (s : State) : Option Report :=
  match i with
  | .ret => if s.sp = 0 then some .stackUnderflow else none
  | .call _ => if s.sp = 16 then some .stackOverflowDropped else none
  | .cls | .jp _ | .seImm _ _ | .sneImm _ _ | .seReg _ _ | .ldImm _ _ | .addImm _ _ | .ldReg _ _
  | .orReg _ _ | .andReg _ _ | .xorReg _ _ | .addReg _ _ | .subReg _ _ | .shr _ _ | .subnReg _ _ | .shl _ _
  | .sneReg _ _ | .ldI _ | .jpV0 _ | .rnd _ _ | .drw _ _ _ | .skp _ | .sknp _ | .ldFromDt _ | .waitKey _ | .ldDt _
  | .ldSt _ | .addI _ | .ldFont _ | .bcd _ | .storeRegs _ | .loadRegs _ => none

/-- The named outcome of a `STEP`, read off the state before it; it is stored nowhere (40_execute_cycle.md R94, R95). -/
def stepReport (s : State) : Option Report :=
  if s.halted then none
  else if fetchFaults s then none
  else
    match decodeWord (fetchWord s) with
    | .instr i => instrReport i s
    | .unknown opcode => some (.unknownOpcode opcode s.pc)
    | .short => none

/-- The named outcome of an event (60_exceptions.md R171). DEDUCED: a halted core gives none, since the event returns
before the point that names it (log entry 8). -/
def eventReport (e : Event) (s : State) : Option Report :=
  match e with
  | .reset => none
  | .load bytes => if s.halted || imageFits bytes then none else some .romTruncated
  | .step _ => stepReport s
  | .tick => none
  | .key k _ => if s.halted || keyCodeOk k then none else some .keyIgnored

end Sys2Proof.Machine
end

