-- ==== Sys2Proof/Safety.lean ====
section
/-! DEFINITION. The terms claims are stated in: what an event leaves unchanged, the invariants of 10_state.md R37, the
reachable states, a quiescent state, a good state. -/

namespace Sys2Proof.Machine

/-- The parts of the state, `pc` apart. -/
inductive Part where
  | regs | index | stack | delay | sound | keys | display | memory | latch | draws
deriving DecidableEq, Repr

/-- A part reads the same in both states. Memory is compared byte by byte, the display pixel by pixel. -/
def Unchanged (s t : State) : Part → Prop
  | .regs => ∀ r, getReg t r = getReg s r
  | .index => t.i = s.i
  | .stack => t.sp = s.sp ∧ ∀ j : Fin 16, t.stack[j.val] = s.stack[j.val]
  | .delay => t.dt = s.dt
  | .sound => t.st = s.st
  | .keys => ∀ k : Fin 16, t.key[k.val] = s.key[k.val]
  | .display => ∀ x y, pixelAt t.fb x y = pixelAt s.fb x y
  | .memory => ∀ a, loadByte t.mem a = loadByte s.mem a
  | .latch => t.halted = s.halted ∧ t.faultCause = s.faultCause ∧ t.faultInfo = s.faultInfo ∧ t.faultPc = s.faultPc
  | .draws => t.draws = s.draws

/-- Every part but the listed ones reads the same; nothing is said of `pc`. -/
def KeepsAllBut (changed : List Part) (s t : State) : Prop := ∀ p, p ∉ changed → Unchanged s t p

/-- Every register but the listed ones reads the same. -/
def RegsKeptBut (changed : List Reg) (s t : State) : Prop := ∀ r, r ∉ changed → getReg t r = getReg s r

/-- Every byte of memory outside the `len` bytes from `a` up reads the same. -/
def MemoryKeptOutside (a len : Nat) (s t : State) : Prop :=
  ∀ b, b < a ∨ a + len ≤ b → loadByte t.mem b = loadByte s.mem b

/-- The pixel (px, py) lies under a set bit of a sprite of `height` rows drawn at (x, y): bit 7 of a row is its leftmost
column, every pixel wraps on its own (45_display.md R151). -/
def SpriteCovers (row : Nat → Byte) (height x y px py : Nat) : Prop :=
  ∃ r c, r < height ∧ c < 8 ∧ (row r).getLsbD (7 - c) = true ∧ (x + c) % 64 = px ∧ (y + r) % 32 = py

/-- `g` is `f` with exactly the covered pixels toggled. -/
def ToggledWhere (covers : Nat → Nat → Prop) (f g : Frame) : Prop :=
  ∀ px py, px < 64 → py < 32 →
    (covers px py → pixelAt g px py = !pixelAt f px py) ∧ (¬ covers px py → pixelAt g px py = pixelAt f px py)

/-- A covered pixel is on in `f`: the collision of 45_display.md R151. -/
def Collides (covers : Nat → Nat → Prop) (f : Frame) : Prop :=
  ∃ px py, px < 64 ∧ py < 32 ∧ covers px py ∧ pixelAt f px py = true

/-- The instructions that may write a part, as the spec lists them (10_state.md R20 to R31, R34; 20_memory.md R50). The
latch row rests on decisions D4 and D5; the `draws` row is the model's own (log entry 2). -/
def writersOf : Part → List String
  | .regs => ["6XNN", "7XNN", "8XY0", "8XY1", "8XY2", "8XY3", "8XY4", "8XY5", "8XY6", "8XY7", "8XYE", "CXNN", "DXYN",
      "FX07", "FX0A", "FX1E", "FX65"]
  | .index => ["ANNN", "FX1E", "FX29"]
  | .stack => ["00EE", "2NNN"]
  | .delay => ["FX15"]
  | .sound => ["FX18"]
  | .keys => []
  | .display => ["00E0", "DXYN"]
  | .memory => ["FX33", "FX55"]
  | .latch => ["DXYN", "FX33", "FX55", "FX65"]
  | .draws => ["CXNN"]

/-- The instructions that write `pc` beyond the advance of the cycle (10_state.md R23). -/
def pcWriters : List String :=
  ["00EE", "1NNN", "2NNN", "BNNN", "3XNN", "4XNN", "5XY0", "9XY0", "EX9E", "EXA1", "FX0A"]

/-- The instructions that write VF as a flag (10_state.md R21). -/
def flagWriters : List String := ["8XY4", "8XY5", "8XY7", "8XY6", "8XYE", "DXYN", "FX1E"]

/-- The register an instruction names as the destination of a plain result, or the last of the run `FX65` loads. -/
def destination : Instr → Option Reg
  | .ldImm x _ | .addImm x _ | .rnd x _ | .ldReg x _ | .orReg x _ | .andReg x _ | .xorReg x _ | .addReg x _
  | .subReg x _ | .shr x _ | .subnReg x _ | .shl x _ | .ldFromDt x | .waitKey x | .loadRegs x => some x
  | .cls | .ret | .jp _ | .call _ | .seImm _ _ | .sneImm _ _ | .seReg _ _ | .sneReg _ _ | .ldI _ | .jpV0 _ | .drw _ _ _
  | .skp _ | .sknp _ | .ldDt _ | .ldSt _ | .addI _ | .ldFont _ | .bcd _ | .storeRegs _ => none

/-- The values `n` pops return, in order (10_state.md R26). -/
def popMany : Nat → State → List Word
  | 0, _ => []
  | n + 1, s => topOfStack s :: popMany n (dropTop s)

/-- A list of values pushed, the first one first (10_state.md R25). -/
def pushMany (values : List Word) (s : State) : State := values.foldl push s

/-- The state is as before the `STEP` but for the fault latch, which says why (60_exceptions.md R172). -/
def FaultTaken (c : FaultCause) (info : Nat) (s t : State) : Prop :=
  t.halted = true ∧ t.faultCause = c ∧ t.faultInfo = BitVec.ofNat 16 info ∧ t.faultPc = s.pc ∧ t.pc = s.pc ∧
    KeepsAllBut [.latch] s t

/-- An opcode, given as a number, decodes to an instruction. -/
abbrev ReadsAs (opcode : Nat) (i : Instr) : Prop := decodeWord (BitVec.ofNat 16 opcode) = .instr i

/-- The invariants of 10_state.md R37 that the field types do not already say (b, d, e), the canonical form of memory,
and that the latch names a fault exactly when the core is halted (60_exceptions.md R172). -/
structure Legal (s : State) : Prop where
  /-- R37 (b) -/
  index : s.i.toNat ≤ 0xFFF
  /-- R37 (d) -/
  counter : s.pc.toNat ≤ 0x10FE
  /-- R37 (e) -/
  slots : ∀ j : Fin 16, s.stack[j.val].toNat ≤ 4096
  /-- the model's memory form -/
  memory : Memory.wf s.mem = true
  /-- R172 -/
  latch : s.halted = true ↔ s.faultCause ≠ .noFault

/-- The states reachable from `RESET` by the five events, in any order (00_scope.md R7, R8). -/
inductive Reachable : State → Prop where
  | reset : Reachable State.reset
  | event {s t : State} (e : Event) : Reachable s → applyEvent e s = .next t → Reachable t

/-- A `STEP` from the state gives the same state again (00_scope.md R10, D18). -/
def Quiescent (s : State) : Prop := step s = .next s

/-- A good state of a run: the core has not taken a fatal fault (60_exceptions.md R172: "A faulted state is never the
good end of a run"). -/
def Good (s : State) : Prop := s.halted = false

end Sys2Proof.Machine
end

