-- ==== Sys2Proof/Certificates/Slice0/Obligations.lean ====
section
/-! DEFINITION. The statements for the provers, each a proposition about the machine. -/

open Sys2Proof Sys2Proof.Machine

/-! ## Encoding -/

/-- 30_encoding.md R73, R74 (with decision D6, all fixed digits match): an opcode satisfies a row's mask and match exactly
when the decoder answers that row's instruction. -/
def Obligations.OpcodeMapSelectsTheInstruction : Prop :=
  ∀ row ∈ opcodeMap, ∀ w : Word, w &&& row.2.1 = row.2.2 ↔ ∃ i, decodeWord w = .instr i ∧ i.pattern = row.1

/-- 30_encoding.md R75 (with decision D6): the unknown opcodes are exactly those of the six families' lists. -/
def Obligations.UnknownOpcodesAreExactlyTheListed : Prop :=
  ∀ w : Word, decodeWord w = .unknown w ↔
    (w.toNat / 0x1000 = 0x0 ∧ w ≠ 0x00E0 ∧ w ≠ 0x00EE) ∨
    (w.toNat / 0x1000 = 0x5 ∧ w.toNat % 0x10 ≠ 0) ∨
    (w.toNat / 0x1000 = 0x8 ∧ w.toNat % 0x10 ∈ [0x8, 0x9, 0xA, 0xB, 0xC, 0xD, 0xF]) ∨
    (w.toNat / 0x1000 = 0x9 ∧ w.toNat % 0x10 ≠ 0) ∨
    (w.toNat / 0x1000 = 0xE ∧ w.toNat % 0x100 ∉ [0x9E, 0xA1]) ∨
    (w.toNat / 0x1000 = 0xF ∧ w.toNat % 0x100 ∉ [0x07, 0x0A, 0x15, 0x18, 0x1E, 0x29, 0x33, 0x55, 0x65])

/-- 30_encoding.md R71, R72: decoding what the encoder writes gives the instruction back, every operand of every
instruction at every value. -/
def Obligations.DecodeOfEncodeIsTheInstruction : Prop :=
  ∀ i : Instr, i.wellFormed = true ∧ decodeWord (encode i) = .instr i ∧
    decodeBytes (bytesOfWord (encode i)) = (.instr i, [])

/-- 30_encoding.md R71, R73: an opcode that decodes is the encoding of what it decodes to, so no bit is dropped and no two
opcodes give one term. For `8XY6` and `8XYE` that rests on the model's choice to keep in the term the Y field that R76 says
is ignored (log entry 20, DESIGN CHOICE). -/
def Obligations.EncodeOfDecodeIsTheOpcode : Prop :=
  ∀ (w : Word) (i : Instr), decodeWord w = .instr i → encode i = w

/-- 95_test_vectors.md V1: opcodes written out from the formats decode to what they stand for. -/
def Obligations.WrittenOutOpcodesDecode : Prop :=
  decodeWord 0b0001001000110100 = .instr (.jp 0x234) ∧ decodeWord 0b1000101010110100 = .instr (.addReg 0xA 0xB) ∧
  decodeWord 0b1101000100101111 = .instr (.drw 1 2 0xF) ∧ decodeWord 0b0011110001111111 = .instr (.seImm 0xC 0x7F) ∧
  decodeWord 0b1011111111111111 = .instr (.jpV0 0xFFF) ∧ decodeWord 0b1111001001010101 = .instr (.storeRegs 2) ∧
  decodeWord 0b1110001110011110 = .instr (.skp 3) ∧ decodeWord 0x01E0 = .unknown 0x01E0

/-! ## The cycle -/

/-- 40_execute_cycle.md R90, 20_memory.md R54: on a core that is not halted, with `pc` <= 4094, when the two bytes at `pc`,
the first the high byte, decode to an instruction, the step is that instruction's meaning on the state. The meaning makes
the advance of R91 itself; the step adds nothing around it. -/
def Obligations.StepRunsTheDecodedInstruction : Prop :=
  ∀ (s : State) (i : Instr), s.halted = false → s.pc.toNat ≤ 4094 →
    ReadsAs ((loadByte s.mem s.pc.toNat).toNat * 256 + (loadByte s.mem (s.pc.toNat + 1)).toNat) i → step s = exec i s

/-- 40_execute_cycle.md R94 (the report's form is decision D8): an unknown opcode is reported with its value and its
address, and the step ends in the start state with `pc` two higher. -/
def Obligations.UnknownOpcodeIsReportedAndPassed : Prop :=
  ∀ (s : State) (w : Word), s.halted = false → s.pc.toNat ≤ 4094 →
    w.toNat = (loadByte s.mem s.pc.toNat).toNat * 256 + (loadByte s.mem (s.pc.toNat + 1)).toNat →
    decodeWord w = .unknown w →
    stepReport s = some (.unknownOpcode w s.pc) ∧
      ∃ t, step s = .next t ∧ t.pc.toNat = s.pc.toNat + 2 ∧ KeepsAllBut [] s t

/-- 60_exceptions.md R170, R172 (the latch is decision D5): a fetch with `pc` > 4094 takes `FetchOutOfBounds`, code 1, with
the value of `pc`, and nothing else changes. -/
def Obligations.FetchOutsideMemoryTakesTheFault : Prop :=
  ∀ s : State, s.halted = false → 4094 < s.pc.toNat →
    ∃ t, step s = .next t ∧ FaultTaken .fetchOutOfBounds s.pc.toNat s t ∧ faultCode t.faultCause = 1 ∧ t.faultInfo = s.pc

/-- 60_exceptions.md R170, R172, R174 (decisions D4 and D5): an instruction whose range leaves memory takes
`DataOutOfBounds`, code 2, with the highest address of the range, and has no other effect. -/
def Obligations.DataOutsideMemoryTakesTheFault : Prop :=
  ∀ (s : State) (x y : Reg) (n : Imm4),
    (4095 < s.i.toNat + 2 →
      ∃ t, exec (.bcd x) s = .next t ∧ FaultTaken .dataOutOfBounds (s.i.toNat + 2) s t ∧ faultCode t.faultCause = 2) ∧
    (4095 < s.i.toNat + x.val →
      (∃ t, exec (.storeRegs x) s = .next t ∧ FaultTaken .dataOutOfBounds (s.i.toNat + x.val) s t ∧
        faultCode t.faultCause = 2) ∧
      ∃ t, exec (.loadRegs x) s = .next t ∧ FaultTaken .dataOutOfBounds (s.i.toNat + x.val) s t ∧
        faultCode t.faultCause = 2) ∧
    (1 ≤ n.toNat → 4095 < s.i.toNat + n.toNat - 1 →
      ∃ t, exec (.drw x y n) s = .next t ∧ FaultTaken .dataOutOfBounds (s.i.toNat + n.toNat - 1) s t ∧
        faultCode t.faultCause = 2)

/-- 40_execute_cycle.md R93, 60_exceptions.md R173 (the latch is decision D5): a step of a running core always gives a next
state; it either leaves the latch alone or takes one fault and changes nothing else. -/
def Obligations.StepCompletesOrTakesOneFault : Prop :=
  ∀ s : State, Good s →
    ∃ t, step s = .next t ∧
      (Unchanged s t .latch ∨ ∃ c info, c ≠ .noFault ∧ 4095 ≤ info ∧ FaultTaken c info s t)

/-- 40_execute_cycle.md R95, 60_exceptions.md R172 (decisions D5 and D17): `STEP`, `LOAD`, `TICK` and `KEY` change nothing on a
halted core and report nothing. -/
def Obligations.HaltedCoreIgnoresEventsButReset : Prop :=
  ∀ s : State, s.halted = true →
    step s = .next s ∧ ∀ e : Event, e ≠ .reset → applyEvent e s = .next s ∧ eventReport e s = none

/-- 00_scope.md R10 (decision D18): a jump to its own address makes the state quiescent. -/
def Obligations.JumpToSelfIsQuiescent : Prop :=
  ∀ (s : State) (nnn : Imm12), s.halted = false → s.pc.toNat = nnn.toNat → nnn.toNat ≤ 4094 →
    ReadsAs ((loadByte s.mem s.pc.toNat).toNat * 256 + (loadByte s.mem (s.pc.toNat + 1)).toNat) (.jp nnn) →
    Quiescent s

/-! ## Control transfer -/

/-- 41_control_transfer.md R100: `00EE` sets `pc` to what `pop()` returns. -/
def Obligations.RetPopsTheReturnAddress : Prop :=
  ReadsAs 0x00EE .ret ∧ ∀ s : State, ∃ t, exec .ret s = .next t ∧
    (s.sp = 0 → t.pc = 0 ∧ t.sp = 0) ∧
    (∀ j : Fin 16, s.sp.val = j.val + 1 → t.pc = s.stack[j.val] ∧ t.sp.val = j.val) ∧
    (instrReport .ret s = if s.sp = 0 then some .stackUnderflow else none) ∧
    (∀ j : Fin 16, t.stack[j.val] = s.stack[j.val]) ∧ KeepsAllBut [.stack] s t

/-- 41_control_transfer.md R101: `1NNN` sets `pc` to NNN. -/
def Obligations.JpSetsPcToTheImmediate : Prop :=
  ∀ nnn : Imm12, ReadsAs (0x1000 + nnn.toNat) (.jp nnn) ∧ ∀ s : State,
    ∃ t, exec (.jp nnn) s = .next t ∧ t.pc.toNat = nnn.toNat ∧ KeepsAllBut [] s t

/-- 41_control_transfer.md R102: `2NNN` pushes the address of the instruction after it and jumps; with a full stack the push
is dropped and the jump is made. -/
def Obligations.CallPushesTheReturnAddress : Prop :=
  ∀ nnn : Imm12, ReadsAs (0x2000 + nnn.toNat) (.call nnn) ∧ ∀ s : State,
    ∃ t, exec (.call nnn) s = .next t ∧ t.pc.toNat = nnn.toNat ∧
      (∀ j : Fin 16, s.sp.val = j.val → t.sp.val = j.val + 1 ∧ t.stack[j.val] = s.pc + 2 ∧
        ∀ k : Fin 16, k ≠ j → t.stack[k.val] = s.stack[k.val]) ∧
      (s.sp = 16 → Unchanged s t .stack) ∧
      (instrReport (.call nnn) s = if s.sp = 16 then some .stackOverflowDropped else none) ∧ KeepsAllBut [.stack] s t

/-- 41_control_transfer.md R103 (the sum is not reduced to 12 bits, decision D2): `BNNN` sets `pc` to NNN + V[0]. -/
def Obligations.JpV0AddsRegisterZero : Prop :=
  ∀ nnn : Imm12, ReadsAs (0xB000 + nnn.toNat) (.jpV0 nnn) ∧ ∀ s : State,
    ∃ t, exec (.jpV0 nnn) s = .next t ∧ t.pc.toNat = nnn.toNat + (getReg s 0).toNat ∧ KeepsAllBut [] s t

/-- 10_state.md R25, R26: pushed values that fit come back in reverse order, the 17th push is dropped, and an empty stack
pops 0 and stays empty. -/
def Obligations.PushedValuesPopInReverse : Prop :=
  (∀ (s : State) (values : List Word), s.sp.val + values.length ≤ 16 →
    (pushMany values s).sp.val = s.sp.val + values.length ∧
      popMany values.length (pushMany values s) = values.reverse) ∧
  (∀ (s : State) (a : Word), s.sp = 16 → push s a = s) ∧
  (∀ s : State, s.sp = 0 → topOfStack s = 0 ∧ dropTop s = s)

/-- 41_control_transfer.md R102, R100: with a free slot, a call and a return right after it end at the instruction after the
call with the stack pointer back. -/
def Obligations.ReturnUndoesCall : Prop :=
  ∀ (s : State) (nnn : Imm12), s.sp.val < 16 →
    ∃ t u, exec (.call nnn) s = .next t ∧ exec .ret t = .next u ∧ u.pc = s.pc + 2 ∧ u.sp = s.sp ∧ KeepsAllBut [.stack] s u

/-! ## Skips -/

/-- 42_skips.md R110, R111: `3XNN` skips when V[X] is NN, `4XNN` when it is not. -/
def Obligations.ImmediateSkipsCompare : Prop :=
  ∀ (x : Reg) (nn : Byte), ReadsAs (0x3000 + x.val * 0x100 + nn.toNat) (.seImm x nn) ∧
    ReadsAs (0x4000 + x.val * 0x100 + nn.toNat) (.sneImm x nn) ∧ ∀ s : State,
    (∃ t, exec (.seImm x nn) s = .next t ∧ (t.pc = if getReg s x = nn then s.pc + 4 else s.pc + 2) ∧ KeepsAllBut [] s t) ∧
    ∃ t, exec (.sneImm x nn) s = .next t ∧ (t.pc = if getReg s x = nn then s.pc + 2 else s.pc + 4) ∧ KeepsAllBut [] s t

/-- 42_skips.md R112, R113: `5XY0` skips when V[X] is V[Y], `9XY0` when it is not. -/
def Obligations.RegisterSkipsCompare : Prop :=
  ∀ x y : Reg, ReadsAs (0x5000 + x.val * 0x100 + y.val * 0x10) (.seReg x y) ∧
    ReadsAs (0x9000 + x.val * 0x100 + y.val * 0x10) (.sneReg x y) ∧ ∀ s : State,
    (∃ t, exec (.seReg x y) s = .next t ∧ (t.pc = if getReg s x = getReg s y then s.pc + 4 else s.pc + 2) ∧
      KeepsAllBut [] s t) ∧
    ∃ t, exec (.sneReg x y) s = .next t ∧ (t.pc = if getReg s x = getReg s y then s.pc + 2 else s.pc + 4) ∧
      KeepsAllBut [] s t

/-! ## Arithmetic and logic -/

/-- 43_alu.md R121: `6XNN` writes NN to V[X] and sets no flag. -/
def Obligations.LdImmLoadsTheImmediate : Prop :=
  ∀ (x : Reg) (nn : Byte), ReadsAs (0x6000 + x.val * 0x100 + nn.toNat) (.ldImm x nn) ∧ ∀ s : State,
    ∃ t, exec (.ldImm x nn) s = .next t ∧ t.pc = s.pc + 2 ∧ getReg t x = nn ∧ RegsKeptBut [x] s t ∧
      KeepsAllBut [.regs] s t

/-- 43_alu.md R122: `7XNN` adds modulo 256 and sets no flag. -/
def Obligations.AddImmWrapsWithoutFlag : Prop :=
  ∀ (x : Reg) (nn : Byte), ReadsAs (0x7000 + x.val * 0x100 + nn.toNat) (.addImm x nn) ∧ ∀ s : State,
    ∃ t, exec (.addImm x nn) s = .next t ∧ t.pc = s.pc + 2 ∧
      (getReg t x).toNat = ((getReg s x).toNat + nn.toNat) % 256 ∧ RegsKeptBut [x] s t ∧ KeepsAllBut [.regs] s t

/-- 43_alu.md R123: `8XY0` copies a register. -/
def Obligations.LdRegCopiesTheRegister : Prop :=
  ∀ x y : Reg, ReadsAs (0x8000 + x.val * 0x100 + y.val * 0x10) (.ldReg x y) ∧ ∀ s : State,
    ∃ t, exec (.ldReg x y) s = .next t ∧ t.pc = s.pc + 2 ∧ getReg t x = getReg s y ∧ RegsKeptBut [x] s t ∧
      KeepsAllBut [.regs] s t

/-- 43_alu.md R124, R125, R126: `8XY1`, `8XY2`, `8XY3`, bit by bit, and VF is not reset. -/
def Obligations.LogicIsBitByBitWithoutFlag : Prop :=
  ∀ x y : Reg, ReadsAs (0x8000 + x.val * 0x100 + y.val * 0x10 + 1) (.orReg x y) ∧
    ReadsAs (0x8000 + x.val * 0x100 + y.val * 0x10 + 2) (.andReg x y) ∧
    ReadsAs (0x8000 + x.val * 0x100 + y.val * 0x10 + 3) (.xorReg x y) ∧ ∀ s : State,
    (∃ t, exec (.orReg x y) s = .next t ∧ t.pc = s.pc + 2 ∧
      (∀ k, k < 8 → (getReg t x).getLsbD k = ((getReg s x).getLsbD k || (getReg s y).getLsbD k)) ∧
      RegsKeptBut [x] s t ∧ KeepsAllBut [.regs] s t) ∧
    (∃ t, exec (.andReg x y) s = .next t ∧ t.pc = s.pc + 2 ∧
      (∀ k, k < 8 → (getReg t x).getLsbD k = ((getReg s x).getLsbD k && (getReg s y).getLsbD k)) ∧
      RegsKeptBut [x] s t ∧ KeepsAllBut [.regs] s t) ∧
    ∃ t, exec (.xorReg x y) s = .next t ∧ t.pc = s.pc + 2 ∧
      (∀ k, k < 8 → (getReg t x).getLsbD k = ((getReg s x).getLsbD k != (getReg s y).getLsbD k)) ∧
      RegsKeptBut [x] s t ∧ KeepsAllBut [.regs] s t

/-- 43_alu.md R127 (X = 0xF or Y = 0xF is decision D3, 43_alu.md R120): `8XY4` adds modulo 256, VF is the carry; when X is 0xF
the sum remains in VF. -/
def Obligations.AddRegAddsWithCarry : Prop :=
  ∀ x y : Reg, ReadsAs (0x8000 + x.val * 0x100 + y.val * 0x10 + 4) (.addReg x y) ∧ ∀ s : State,
    ∃ t, exec (.addReg x y) s = .next t ∧ t.pc = s.pc + 2 ∧
      (getReg t x).toNat = ((getReg s x).toNat + (getReg s y).toNat) % 256 ∧
      (x ≠ vf → getReg t vf = if 255 < (getReg s x).toNat + (getReg s y).toNat then 1 else 0) ∧
      RegsKeptBut [x, vf] s t ∧ KeepsAllBut [.regs] s t

/-- 43_alu.md R128 (X = 0xF or Y = 0xF is decision D3): `8XY5` subtracts, VF is 1 when there is no borrow. -/
def Obligations.SubRegSubtractsWithNoBorrow : Prop :=
  ∀ x y : Reg, ReadsAs (0x8000 + x.val * 0x100 + y.val * 0x10 + 5) (.subReg x y) ∧ ∀ s : State,
    ∃ t, exec (.subReg x y) s = .next t ∧ t.pc = s.pc + 2 ∧
      ((getReg t x).toNat : Int) = ((getReg s x).toNat - (getReg s y).toNat : Int) % 256 ∧
      (x ≠ vf → getReg t vf = if (getReg s y).toNat ≤ (getReg s x).toNat then 1 else 0) ∧
      RegsKeptBut [x, vf] s t ∧ KeepsAllBut [.regs] s t

/-- 43_alu.md R130 (X = 0xF or Y = 0xF is decision D3): `8XY7` subtracts V[X] from V[Y] into V[X], VF is 1 when there is no
borrow. -/
def Obligations.SubnRegSubtractsTheOtherWay : Prop :=
  ∀ x y : Reg, ReadsAs (0x8000 + x.val * 0x100 + y.val * 0x10 + 7) (.subnReg x y) ∧ ∀ s : State,
    ∃ t, exec (.subnReg x y) s = .next t ∧ t.pc = s.pc + 2 ∧
      ((getReg t x).toNat : Int) = ((getReg s y).toNat - (getReg s x).toNat : Int) % 256 ∧
      (x ≠ vf → getReg t vf = if (getReg s x).toNat ≤ (getReg s y).toNat then 1 else 0) ∧
      RegsKeptBut [x, vf] s t ∧ KeepsAllBut [.regs] s t

/-- 43_alu.md R129, R131, 30_encoding.md R76 (X = 0xF is decision D3): the shifts move V[X] by one bit, VF is the bit shifted
out, and every Y gives the same effect. -/
def Obligations.ShiftsMoveOneBitOut : Prop :=
  ∀ x y : Reg, ReadsAs (0x8000 + x.val * 0x100 + y.val * 0x10 + 0x6) (.shr x y) ∧
    ReadsAs (0x8000 + x.val * 0x100 + y.val * 0x10 + 0xE) (.shl x y) ∧ ∀ s : State,
    (∃ t, exec (.shr x y) s = .next t ∧ t.pc = s.pc + 2 ∧ (getReg t x).toNat = (getReg s x).toNat / 2 ∧
      (x ≠ vf → (getReg t vf).toNat = (getReg s x).toNat % 2) ∧ RegsKeptBut [x, vf] s t ∧ KeepsAllBut [.regs] s t) ∧
    (∃ t, exec (.shl x y) s = .next t ∧ t.pc = s.pc + 2 ∧ (getReg t x).toNat = (getReg s x).toNat * 2 % 256 ∧
      (x ≠ vf → (getReg t vf).toNat = (getReg s x).toNat / 128) ∧ RegsKeptBut [x, vf] s t ∧ KeepsAllBut [.regs] s t) ∧
    ∀ z : Reg, exec (.shr x z) s = exec (.shr x y) s ∧ exec (.shl x z) s = exec (.shl x y) s

/-- 43_alu.md R132, 10_state.md R35 (decision D7): `CXNN` completes from every state with a result inside the mask and leaves
the rest alone; it stores the random byte masked by NN, whatever the random byte is. The draw is counted in the model's own
field (log entry 2). The statement holds for every value of the free byte. -/
def Obligations.RndMasksTheRandomByte : Prop :=
  ∀ (x : Reg) (nn : Byte), ReadsAs (0xC000 + x.val * 0x100 + nn.toNat) (.rnd x nn) ∧ ∀ s : State,
    (∃ t, exec (.rnd x nn) s = .next t ∧ t.pc = s.pc + 2 ∧ getReg t x &&& ~~~nn = 0 ∧ RegsKeptBut [x] s t ∧
      KeepsAllBut [.regs, .draws] s t) ∧
    exec (.rnd x nn) s = execWith (Config.randomByte s.draws) (.rnd x nn) s ∧
    ∀ random : Byte, ∃ t, execWith random (.rnd x nn) s = .next t ∧ t.pc = s.pc + 2 ∧
      (∀ k, k < 8 → (getReg t x).getLsbD k = (random.getLsbD k && nn.getLsbD k)) ∧ t.draws = s.draws + 1 ∧
      RegsKeptBut [x] s t ∧ KeepsAllBut [.regs, .draws] s t

/-! ## Index register and memory -/

/-- 44_index_memory.md R140: `ANNN` sets `I` to NNN, zero-extended, and sets no flag. -/
def Obligations.LdIndexLoadsTheImmediate : Prop :=
  ∀ nnn : Imm12, ReadsAs (0xA000 + nnn.toNat) (.ldI nnn) ∧ ∀ s : State,
    ∃ t, exec (.ldI nnn) s = .next t ∧ t.pc = s.pc + 2 ∧ t.i.toNat = nnn.toNat ∧ KeepsAllBut [.index] s t

/-- 44_index_memory.md R141 (12 bits kept is decision D1, X = 0xF is decision D3): `FX1E` adds, keeps the low 12 bits, and VF
tells whether the sum passed 0xFFF. -/
def Obligations.AddIndexWrapsAtTwelveBits : Prop :=
  ∀ x : Reg, ReadsAs (0xF01E + x.val * 0x100) (.addI x) ∧ ∀ s : State,
    ∃ t, exec (.addI x) s = .next t ∧ t.pc = s.pc + 2 ∧
      t.i.toNat = (s.i.toNat + (getReg s x).toNat) % 0x1000 ∧
      (getReg t vf = if 0xFFF < s.i.toNat + (getReg s x).toNat then 1 else 0) ∧
      RegsKeptBut [vf] s t ∧ KeepsAllBut [.regs, .index] s t

/-- 44_index_memory.md R142: `FX29` points at 0x050 + 5 * V[X], the whole value of V[X]. -/
def Obligations.LdFontPointsAtTheGlyph : Prop :=
  ∀ x : Reg, ReadsAs (0xF029 + x.val * 0x100) (.ldFont x) ∧ ∀ s : State,
    ∃ t, exec (.ldFont x) s = .next t ∧ t.pc = s.pc + 2 ∧ t.i.toNat = 0x050 + 5 * (getReg s x).toNat ∧
      KeepsAllBut [.index] s t

/-- 44_index_memory.md R142, 10_state.md R41 (the glyph bytes are decision D10, log entry 1): over the memory of reset, `FX29` on
a hex digit points at that digit's five glyph bytes, each with its low nibble 0. -/
def Obligations.FontPointerFindsTheGlyph : Prop :=
  ∀ (x : Reg) (s : State), s.mem = State.reset.mem → (getReg s x).toNat < 16 →
    ∃ t, exec (.ldFont x) s = .next t ∧ ∀ k, k < 5 →
      loadByte t.mem (t.i.toNat + k) = Config.font.getD (5 * (getReg s x).toNat + k) 0 ∧
      (loadByte t.mem (t.i.toNat + k)).toNat % 16 = 0

/-- 44_index_memory.md R143: `FX33` inside memory stores the three decimal digits from `I` up and changes nothing else. -/
def Obligations.BcdStoresTheDecimalDigits : Prop :=
  ∀ x : Reg, ReadsAs (0xF033 + x.val * 0x100) (.bcd x) ∧ ∀ s : State, Memory.wf s.mem = true → s.i.toNat + 2 ≤ 4095 →
    ∃ t, exec (.bcd x) s = .next t ∧ t.pc = s.pc + 2 ∧
      (loadByte t.mem s.i.toNat).toNat = (getReg s x).toNat / 100 ∧
      (loadByte t.mem (s.i.toNat + 1)).toNat = (getReg s x).toNat / 10 % 10 ∧
      (loadByte t.mem (s.i.toNat + 2)).toNat = (getReg s x).toNat % 10 ∧
      MemoryKeptOutside s.i.toNat 3 s t ∧ KeepsAllBut [.memory] s t

/-- 44_index_memory.md R144, 20_memory.md R55: `FX55` inside memory stores V[0] to V[X] from `I` up, `I` unchanged. -/
def Obligations.StoreRegsStoresTheRun : Prop :=
  ∀ x : Reg, ReadsAs (0xF055 + x.val * 0x100) (.storeRegs x) ∧ ∀ s : State, Memory.wf s.mem = true →
    s.i.toNat + x.val ≤ 4095 →
    ∃ t, exec (.storeRegs x) s = .next t ∧ t.pc = s.pc + 2 ∧
      (∀ r : Reg, r ≤ x → loadByte t.mem (s.i.toNat + r.val) = getReg s r) ∧
      MemoryKeptOutside s.i.toNat (x.val + 1) s t ∧ KeepsAllBut [.memory] s t

/-- 44_index_memory.md R145, 20_memory.md R55: `FX65` inside memory loads V[0] to V[X] from `I` up, `I` unchanged. -/
def Obligations.LoadRegsLoadsTheRun : Prop :=
  ∀ x : Reg, ReadsAs (0xF065 + x.val * 0x100) (.loadRegs x) ∧ ∀ s : State, s.i.toNat + x.val ≤ 4095 →
    ∃ t, exec (.loadRegs x) s = .next t ∧ t.pc = s.pc + 2 ∧
      (∀ r : Reg, r ≤ x → getReg t r = loadByte s.mem (s.i.toNat + r.val)) ∧
      (∀ r : Reg, x < r → getReg t r = getReg s r) ∧ KeepsAllBut [.regs] s t

/-- 44_index_memory.md R145: `FX55` followed by `FX65` with the same X and `I` leaves the registers as they were. -/
def Obligations.StoreThenLoadRestoresRegisters : Prop :=
  ∀ (s : State) (x : Reg), Memory.wf s.mem = true → s.i.toNat + x.val ≤ 4095 →
    ∃ t u, exec (.storeRegs x) s = .next t ∧ exec (.loadRegs x) t = .next u ∧ u.pc = s.pc + 4 ∧ KeepsAllBut [.memory] s u

/-- 20_memory.md R63, R61: the bytes `FX55` stores are the next fetch's opcode when they lie at the next `pc`, so the very
next step runs the instruction they encode. -/
def Obligations.StoredBytesAreTheNextOpcode : Prop :=
  ∀ (s : State) (x r : Reg) (i : Instr), Memory.wf s.mem = true → s.halted = false → s.pc.toNat ≤ 4092 →
    s.i.toNat + x.val ≤ 4095 → s.i.toNat + r.val = s.pc.toNat + 2 → r < x →
    ReadsAs ((getReg s r).toNat * 256 + (getReg s (r + 1)).toNat) i →
    ∃ t, exec (.storeRegs x) s = .next t ∧ step t = exec i t

/-! ## Display -/

/-- 45_display.md R150: `00E0` turns every pixel off. -/
def Obligations.ClsTurnsEveryPixelOff : Prop :=
  ReadsAs 0x00E0 .cls ∧ ∀ s : State, ∃ t, exec .cls s = .next t ∧ t.pc = s.pc + 2 ∧
    (∀ x y, pixelAt t.fb x y = false) ∧ KeepsAllBut [.display] s t

/-- 45_display.md R151: the compositor toggles exactly the pixels under set bits, wrapping on both axes, and its collision is
true exactly when one of them was on before. -/
def Obligations.SpriteTogglesItsPixels : Prop :=
  ∀ (f : Frame) (x y : Nat) (rows : List Byte), rows.length ≤ 15 →
    ToggledWhere (SpriteCovers (fun r => rows.getD r 0) rows.length x y) f (drawSprite f x y rows).1 ∧
      ((drawSprite f x y rows).2 = true ↔ Collides (SpriteCovers (fun r => rows.getD r 0) rows.length x y) f)

/-- 45_display.md R151: drawing the same sprite at the same place twice gives the framebuffer back. -/
def Obligations.SpriteIsItsOwnInverse : Prop :=
  ∀ (f : Frame) (x y : Nat) (rows : List Byte), rows.length ≤ 15 →
    (drawSprite (drawSprite f x y rows).1 x y rows).1 = f

/-- 45_display.md R152 (X = 0xF or Y = 0xF is decision D3): `DXYN` inside memory draws N rows from `I` at (V[X], V[Y]) and VF is
the collision; N = 0 draws nothing and clears VF wherever `I` points. -/
def Obligations.DrwDrawsAndFlagsCollision : Prop :=
  ∀ (x y : Reg) (n : Imm4), ReadsAs (0xD000 + x.val * 0x100 + y.val * 0x10 + n.toNat) (.drw x y n) ∧ ∀ s : State,
    n = 0 ∨ s.i.toNat + n.toNat ≤ 4096 →
    ∃ t, exec (.drw x y n) s = .next t ∧ t.pc = s.pc + 2 ∧
      ToggledWhere (SpriteCovers (fun r => loadByte s.mem (s.i.toNat + r)) n.toNat (getReg s x).toNat (getReg s y).toNat)
        s.fb t.fb ∧
      (Collides (SpriteCovers (fun r => loadByte s.mem (s.i.toNat + r)) n.toNat (getReg s x).toNat (getReg s y).toNat)
        s.fb → getReg t vf = 1) ∧
      (¬ Collides (SpriteCovers (fun r => loadByte s.mem (s.i.toNat + r)) n.toNat (getReg s x).toNat (getReg s y).toNat)
        s.fb → getReg t vf = 0) ∧
      RegsKeptBut [vf] s t ∧ KeepsAllBut [.regs, .display] s t

/-! ## Keys and timers -/

/-- 46_keys_timers.md R160, R161, 10_state.md R30: the key skips test the key numbered by the whole of V[X]; no key has a
number above 15. `is_key_pressed` of any integer is the key flag for 0 to 15 and false for every other. -/
def Obligations.KeySkipsTestTheKey : Prop :=
  ∀ x : Reg, ReadsAs (0xE09E + x.val * 0x100) (.skp x) ∧ ReadsAs (0xE0A1 + x.val * 0x100) (.sknp x) ∧ ∀ s : State,
    (∀ k : Fin 16, isKeyPressed s k.val = s.key[k.val]) ∧ (∀ k : Int, k < 0 ∨ 15 < k → isKeyPressed s k = false) ∧
    ∃ t u, exec (.skp x) s = .next t ∧ exec (.sknp x) s = .next u ∧
      (∀ k : Fin 16, (getReg s x).toNat = k.val →
        (t.pc = if s.key[k.val] then s.pc + 4 else s.pc + 2) ∧ (u.pc = if s.key[k.val] then s.pc + 2 else s.pc + 4)) ∧
      (16 ≤ (getReg s x).toNat → t.pc = s.pc + 2 ∧ u.pc = s.pc + 4) ∧ KeepsAllBut [] s t ∧ KeepsAllBut [] s u

/-- 46_keys_timers.md R163: with no key down `FX0A` ends in the state it started from; with keys down V[X] gets the lowest one
and `pc` advances. -/
def Obligations.WaitKeyRetriesOrTakesTheLowest : Prop :=
  ∀ x : Reg, ReadsAs (0xF00A + x.val * 0x100) (.waitKey x) ∧ ∀ s : State,
    ((∀ k : Fin 16, s.key[k.val] = false) → exec (.waitKey x) s = .next s) ∧
    (∀ k : Fin 16, s.key[k.val] = true → (∀ j : Fin 16, j < k → s.key[j.val] = false) →
      ∃ t, exec (.waitKey x) s = .next t ∧ t.pc = s.pc + 2 ∧ (getReg t x).toNat = k.val ∧ RegsKeptBut [x] s t ∧
        KeepsAllBut [.regs] s t)

/-- 46_keys_timers.md R162, R164, R165: `FX07` copies DT to V[X], `FX15` and `FX18` copy V[X] to DT and to ST.
-/
def Obligations.TimerMovesCopyTheTimer : Prop :=
  ∀ x : Reg, ReadsAs (0xF007 + x.val * 0x100) (.ldFromDt x) ∧ ReadsAs (0xF015 + x.val * 0x100) (.ldDt x) ∧
    ReadsAs (0xF018 + x.val * 0x100) (.ldSt x) ∧ ∀ s : State,
    (∃ t, exec (.ldFromDt x) s = .next t ∧ t.pc = s.pc + 2 ∧ getReg t x = s.dt ∧ RegsKeptBut [x] s t ∧
      KeepsAllBut [.regs] s t) ∧
    (∃ t, exec (.ldDt x) s = .next t ∧ t.pc = s.pc + 2 ∧ t.dt = getReg s x ∧ KeepsAllBut [.delay] s t) ∧
    ∃ t, exec (.ldSt x) s = .next t ∧ t.pc = s.pc + 2 ∧ t.st = getReg s x ∧ KeepsAllBut [.sound] s t

/-! ## The host's events -/

/-- 10_state.md R40, 70_reset_and_hazards.md R200 (the latch is decision D5, a second RESET decision D12): `RESET` gives every
piece of the spec's state its value, whatever the state before, the halted state included. -/
def Obligations.ResetGivesTheTable : Prop :=
  ∀ s : State, ∃ t, applyEvent .reset s = .next t ∧ t = { State.reset with draws := s.draws } ∧
    (∀ r, getReg t r = 0) ∧ t.i = 0 ∧ t.pc = 0x200 ∧ t.sp = 0 ∧ (∀ j : Fin 16, t.stack[j.val] = 0) ∧ t.dt = 0 ∧ t.st = 0 ∧
    (∀ k : Fin 16, t.key[k.val] = false) ∧ (∀ x y, pixelAt t.fb x y = false) ∧
    (∀ a, a < 80 → loadByte t.mem (0x050 + a) = Config.font.getD a 0) ∧
    (∀ a, a < 0x050 ∨ 0x0A0 ≤ a → loadByte t.mem a = 0) ∧
    t.halted = false ∧ faultCode t.faultCause = 0 ∧ t.faultInfo = 0 ∧ t.faultPc = 0

/-- 70_reset_and_hazards.md R201 (decisions D12 and D17): `LOAD` on a running core copies the image from 0x200 up, at most
3584 bytes, and changes nothing else; an image that is longer is reported. -/
def Obligations.LoadCopiesTheImage : Prop :=
  ∀ (s : State) (bytes : List Byte), s.halted = false → Memory.wf s.mem = true →
    ∃ t, applyEvent (.load bytes) s = .next t ∧ t.pc = s.pc ∧
      (∀ k, k < bytes.length → k < 3584 → loadByte t.mem (0x200 + k) = bytes.getD k 0) ∧
      MemoryKeptOutside 0x200 (min bytes.length 3584) s t ∧ KeepsAllBut [.memory] s t ∧
      eventReport (.load bytes) s = if 3584 < bytes.length then some .romTruncated else none

/-- 60_exceptions.md R180 (the guard is decision D17): `TICK` on a running core decrements each timer, floored at 0, and
touches nothing else. -/
def Obligations.TickDecrementsTheTimers : Prop :=
  ∀ s : State, s.halted = false → ∃ t, applyEvent .tick s = .next t ∧ t.dt.toNat = s.dt.toNat - 1 ∧
    t.st.toNat = s.st.toNat - 1 ∧ t.pc = s.pc ∧ KeepsAllBut [.delay, .sound] s t

/-- 60_exceptions.md R182 (the guard is decision D17): `KEY` on a running core writes one key flag; a code outside 0 to 15
changes nothing and is reported. -/
def Obligations.KeyEventWritesOneFlag : Prop :=
  ∀ (s : State) (code : Int) (pressed : Bool), s.halted = false → ∃ t, applyEvent (.key code pressed) s = .next t ∧
    (∀ k : Fin 16, code = k.val → t.key[k.val] = pressed) ∧
    (∀ k : Fin 16, code ≠ k.val → t.key[k.val] = s.key[k.val]) ∧
    (code < 0 ∨ 15 < code → t = s ∧ eventReport (.key code pressed) s = some .keyIgnored) ∧
    t.pc = s.pc ∧ KeepsAllBut [.keys] s t

/-- 60_exceptions.md R181 (decision D15): `sound_on` is true exactly when ST is not 0, and a `TICK` of a running core stops the
tone exactly from 1. -/
def Obligations.SoundStopsWhenTheTimerReachesZero : Prop :=
  ∀ s : State, (soundOn s = true ↔ s.st.toNat ≠ 0) ∧
    (s.halted = false → ∃ t, applyEvent .tick s = .next t ∧ (toneStops s t = true ↔ s.st.toNat = 1))

/-- 40_execute_cycle.md R90, 10_state.md R35 (decision D7): the host's step is the event `STEP(rnd)` at the free byte, and `rnd`
matters to `CXNN` only. -/
def Obligations.StepIsTheStepEventAtTheFreeByte : Prop :=
  (∀ s : State, step s = applyEvent (.step (Config.randomByte s.draws)) s) ∧
  ∀ (s : State) (p q : Byte),
    (∀ x nn, ¬ ReadsAs ((loadByte s.mem s.pc.toNat).toNat * 256 + (loadByte s.mem (s.pc.toNat + 1)).toNat) (.rnd x nn)) →
    applyEvent (.step p) s = applyEvent (.step q) s

/-! ## Invariants and whole-machine rules -/

/-- 10_state.md R37 (b, d, e), R40: the state after reset meets the invariant. Two of its clauses are not the rules':
memory is in its canonical form (log entry 17, DESIGN CHOICE), and the latch names a fault exactly when the core is halted
(log entry 24, DEDUCED). -/
def Obligations.ResetMeetsTheInvariant : Prop := Legal State.reset

/-- 10_state.md R37 (b, d, e), with the model's own canonical form of memory and the latch clause (log entries 17 and 24):
every step, from every state that meets the invariant, ends
in a state that meets it. -/
def Obligations.StepKeepsTheInvariant : Prop :=
  ∀ s t : State, Legal s → step s = .next t → Legal t

/-- 10_state.md R37, 00_scope.md R7: every event, in any order, keeps the invariant. -/
def Obligations.EveryEventKeepsTheInvariant : Prop :=
  ∀ (e : Event) (s t : State), Legal s → applyEvent e s = .next t → Legal t

/-- 10_state.md R37: in every state reachable from reset by any events, `sp` is at most 16, `I` at most 0xFFF, `pc` at most
0x10FE, every slot at most 4096, and once the core is halted nothing but `RESET` changes it (decisions D1, D2, D5, D17).
Memory is in its canonical form there too: that clause is the model's own (log entries 17 and 24). -/
def Obligations.ReachableStatesStayInRange : Prop :=
  ∀ s : State, Reachable s → s.sp.val ≤ 16 ∧ s.i.toNat ≤ 0xFFF ∧ s.pc.toNat ≤ 0x10FE ∧
    (∀ j : Fin 16, s.stack[j.val].toNat ≤ 4096) ∧ Memory.wf s.mem = true ∧
    (s.halted = true → ∀ e : Event, e ≠ .reset → applyEvent e s = .next s)

/-- 10_state.md R20 to R31, R34, 20_memory.md R50, R60: each part of the spec's state, `pc` apart, is changed by no
instruction but those the spec names for it; no instruction writes a key flag. The latch is changed by no instruction but
the four that access data (decisions D4 and D5). The row of `draws` is the model's own (log entry 2).
10_state.md R23: from a running core, an instruction that is not one of the eleven that write `pc` beyond the advance and
that takes no fault ends with `pc` two higher. -/
def Obligations.OnlyNamedInstructionsWriteAPart : Prop :=
  (∀ (i : Instr) (s t : State) (p : Part), exec i s = .next t → i.pattern ∉ writersOf p → Unchanged s t p) ∧
  ∀ (i : Instr) (s t : State), s.halted = false → exec i s = .next t → t.halted = false → i.pattern ∉ pcWriters →
    t.pc = s.pc + 2

/-- 10_state.md R21: VF changes as a side effect of no instruction but the seven flag writers; any other instruction leaves
VF alone unless VF is its destination. -/
def Obligations.OnlyFlagWritersTouchVf : Prop :=
  ∀ (i : Instr) (s t : State), exec i s = .next t → i.pattern ∉ flagWriters → destination i ≠ some vf →
    getReg t vf = getReg s vf

/-- 10_state.md R21, 43_alu.md R120: after a flag writer that takes no fault and whose destination is not VF, VF is the byte
0 or the byte 1. -/
def Obligations.FlagIsZeroOrOne : Prop :=
  ∀ (i : Instr) (s t : State), s.halted = false → exec i s = .next t → t.halted = false → i.pattern ∈ flagWriters →
    destination i ≠ some vf → getReg t vf = 0 ∨ getReg t vf = 1

/-- 10_state.md R28, 60_exceptions.md R181: no instruction reads ST. With another ST an instruction other than `FX18` does
the same and leaves that ST in place; `FX18`, which overwrites ST, ends in the very same state. -/
def Obligations.NoInstructionReadsTheSoundTimer : Prop :=
  (∀ (i : Instr) (s t : State) (b : Byte), i.pattern ≠ "FX18" → exec i s = .next t →
    exec i { s with st := b } = .next { t with st := b }) ∧
  ∀ (x : Reg) (s : State) (b : Byte), exec (.ldSt x) { s with st := b } = exec (.ldSt x) s

/-- 20_memory.md R50, R60: an instruction other than `DXYN`, `FX33`, `FX55`, `FX65` neither reads nor writes memory once it is
fetched: over any other memory it does the same. -/
def Obligations.OnlyFourInstructionsReachMemory : Prop :=
  ∀ (i : Instr) (s t : State) (m : Memory), i.pattern ∉ ["DXYN", "FX33", "FX55", "FX65"] → exec i s = .next t →
    exec i { s with mem := m } = .next { t with mem := m }
end

