-- ==== Sys2Proof/Laws/Decode.lean ====
section
/-! SUPPORT. The fields of an opcode as numbers, and the masks of the opcode map as numbers. -/

namespace Sys2Proof

theorem toNat_wordOfBytes (hi lo : Byte) : (wordOfBytes hi lo).toNat = hi.toNat * 256 + lo.toNat := by
  have := hi.isLt; have := lo.isLt
  simp only [wordOfBytes, BitVec.toNat_ofNat]; omega

theorem toNat_encodeNNN (family : Nat) (nnn : Imm12) (h : family < 16) :
    (encodeNNN family nnn).toNat = family * 0x1000 + nnn.toNat := by
  have := nnn.isLt
  simp only [encodeNNN, BitVec.toNat_ofNat]; omega

theorem toNat_encodeXNN (family : Nat) (x : Reg) (nn : Byte) (h : family < 16) :
    (encodeXNN family x nn).toNat = family * 0x1000 + x.val * 0x100 + nn.toNat := by
  have := nn.isLt; have := x.isLt
  simp only [encodeXNN, BitVec.toNat_ofNat]; omega

theorem toNat_encodeXYN (family : Nat) (x y : Reg) (n : Nat) (h : family < 16) (hn : n < 16) :
    (encodeXYN family x y n).toNat = family * 0x1000 + x.val * 0x100 + y.val * 0x10 + n := by
  have := x.isLt; have := y.isLt
  simp only [encodeXYN, BitVec.toNat_ofNat]; omega

theorem toNat_encodeX (family : Nat) (x : Reg) (low : Nat) (h : family < 16) (hl : low < 256) :
    (encodeX family x low).toNat = family * 0x1000 + x.val * 0x100 + low := by
  have := x.isLt
  simp only [encodeX, BitVec.toNat_ofNat]; omega

/-- The high nibble kept by a mask. -/
theorem toNat_and_F000 (w : Word) : (w &&& 0xF000#16).toNat = w.toNat / 0x1000 * 0x1000 := by
  have h : w &&& 0xF000#16 = (w >>> 12) <<< 12 := by
    ext i hi
    have : i < 16 := hi
    interval_cases i <;> simp
  rw [h, BitVec.toNat_shiftLeft, BitVec.toNat_ushiftRight, Nat.shiftLeft_eq, Nat.shiftRight_eq_div_pow]
  have := w.isLt
  omega

theorem toNat_and_F00F (w : Word) : (w &&& 0xF00F#16).toNat = w.toNat / 0x1000 * 0x1000 + w.toNat % 0x10 := by
  have h : w &&& 0xF00F#16 = (w &&& 0xF000#16) + (w &&& 0x000F#16) := by
    rw [BitVec.add_eq_or_of_and_eq_zero _ _ (by ext i hi; have : i < 16 := hi; interval_cases i <;> simp)]
    ext i hi
    have : i < 16 := hi
    interval_cases i <;> simp
  have h4 : (w &&& 0x000F#16).toNat = w.toNat % 0x10 := Nat.and_two_pow_sub_one_eq_mod w.toNat 4
  rw [h, BitVec.toNat_add, toNat_and_F000, h4]
  have := w.isLt
  omega

theorem toNat_and_F0FF (w : Word) : (w &&& 0xF0FF#16).toNat = w.toNat / 0x1000 * 0x1000 + w.toNat % 0x100 := by
  have h : w &&& 0xF0FF#16 = (w &&& 0xF000#16) + (w &&& 0x00FF#16) := by
    rw [BitVec.add_eq_or_of_and_eq_zero _ _ (by ext i hi; have : i < 16 := hi; interval_cases i <;> simp)]
    ext i hi
    have : i < 16 := hi
    interval_cases i <;> simp
  have h8 : (w &&& 0x00FF#16).toNat = w.toNat % 0x100 := Nat.and_two_pow_sub_one_eq_mod w.toNat 8
  rw [h, BitVec.toNat_add, toNat_and_F000, h8]
  have := w.isLt
  omega

theorem and_FFFF (w : Word) : w &&& 0xFFFF#16 = w := BitVec.and_allOnes

end Sys2Proof
end

