-- ==== Sys2Proof/Laws/Memory.lean ====
section
/-! SUPPORT. Memory: every store keeps the canonical form, a read after a store to the same address gives the byte stored,
and a store leaves every other address alone. -/

namespace Sys2Proof.Machine

/-- The canonical form, one entry unfolded. -/
theorem Memory.wfFrom_cons (lo a : Nat) (b : Byte) (m : Memory) :
    Memory.wfFrom lo ((a, b) :: m) = true ↔
      lo ≤ a ∧ a < Config.memSize ∧ b ≠ Config.resetByte a ∧ Memory.wfFrom (a + 1) m = true := by
  simp [Memory.wfFrom, and_assoc]

theorem Memory.wfFrom_mono {lo lo' : Nat} (h : lo' ≤ lo) : ∀ {m : Memory}, Memory.wfFrom lo m = true →
    Memory.wfFrom lo' m = true
  | [], _ => rfl
  | (a, b) :: m, hm => by
    rw [Memory.wfFrom_cons] at hm ⊢
    exact ⟨h.trans hm.1, hm.2⟩

/-- Below its first address a canonical list reads as the reset contents. -/
theorem loadByte_of_lt : ∀ {m : Memory} {lo a : Nat}, Memory.wfFrom lo m = true → a < lo →
    loadByte m a = Config.resetByte a
  | [], _, _, _, _ => rfl
  | (k, c) :: m, lo, a, hm, h => by
    rw [Memory.wfFrom_cons] at hm
    have hk : k ≠ a := by omega
    simp only [loadByte, if_neg hk]
    exact loadByte_of_lt hm.2.2.2 (by omega)

theorem loadByte_consCell (a : Nat) (b : Byte) (m : Memory) (k : Nat) (hk : k ≠ a) :
    loadByte (consCell a b m) k = loadByte m k := by
  unfold consCell
  split
  · rfl
  · simp [loadByte, Ne.symm hk]

theorem loadByte_consCell_self {a : Nat} (b : Byte) {m : Memory} (hm : Memory.wfFrom (a + 1) m = true) :
    loadByte (consCell a b m) a = b := by
  unfold consCell
  split
  · rename_i h; rw [loadByte_of_lt hm (Nat.lt_succ_self a), h]
  · simp [loadByte]

theorem wfFrom_consCell {lo a : Nat} (b : Byte) {m : Memory} (hlo : lo ≤ a) (ha : a < Config.memSize)
    (hm : Memory.wfFrom (a + 1) m = true) : Memory.wfFrom lo (consCell a b m) = true := by
  unfold consCell
  split
  · exact Memory.wfFrom_mono (by omega) hm
  · rename_i h; exact (Memory.wfFrom_cons _ _ _ _).2 ⟨hlo, ha, h, hm⟩

/-- A store leaves every other address alone, whatever the list. -/
theorem loadByte_storeByte_of_ne (a : Nat) (b : Byte) (k : Nat) (hk : k ≠ a) : ∀ m : Memory,
    loadByte (storeByte m a b) k = loadByte m k
  | [] => loadByte_consCell a b [] k hk
  | (j, c) :: m => by
    unfold storeByte
    split
    · exact loadByte_consCell a b _ k hk
    · split
      · rename_i h; rw [loadByte_consCell a b m k hk]; simp [loadByte, h ▸ Ne.symm hk]
      · simp only [loadByte]; split
        · rfl
        · exact loadByte_storeByte_of_ne a b k hk m

/-- A read after a store to the same address gives the byte stored. -/
theorem loadByte_storeByte_self (a : Nat) (b : Byte) : ∀ {m : Memory} {lo : Nat}, Memory.wfFrom lo m = true →
    loadByte (storeByte m a b) a = b
  | [], _, _ => loadByte_consCell_self b (m := []) rfl
  | (k, c) :: m, lo, hm => by
    rw [Memory.wfFrom_cons] at hm
    unfold storeByte
    split
    · rename_i h
      exact loadByte_consCell_self b ((Memory.wfFrom_cons _ _ _ _).2 ⟨by omega, hm.2⟩)
    · split
      · rename_i h; subst h; exact loadByte_consCell_self b hm.2.2.2
      · rename_i h; simp only [loadByte, if_neg (Ne.symm h)]; exact loadByte_storeByte_self a b hm.2.2.2

theorem wfFrom_storeByte {a : Nat} (b : Byte) (ha : a < Config.memSize) : ∀ {m : Memory} {lo : Nat}, lo ≤ a →
    Memory.wfFrom lo m = true → Memory.wfFrom lo (storeByte m a b) = true
  | [], _, hlo, _ => wfFrom_consCell b hlo ha rfl
  | (k, c) :: m, lo, hlo, hm => by
    have hm' := (Memory.wfFrom_cons _ _ _ _).1 hm
    unfold storeByte
    split
    · exact wfFrom_consCell b hlo ha ((Memory.wfFrom_cons _ _ _ _).2 ⟨by omega, hm'.2⟩)
    · split
      · rename_i h; subst h; exact wfFrom_consCell b hlo ha hm'.2.2.2
      · exact (Memory.wfFrom_cons _ _ _ _).2
          ⟨hm'.1, hm'.2.1, hm'.2.2.1, wfFrom_storeByte b ha (by omega) hm'.2.2.2⟩

/-- One store inside memory keeps the canonical form. -/
theorem wf_storeByte {m : Memory} {a : Nat} (b : Byte) (ha : a < 4096) (hm : m.wf = true) :
    Memory.wf (storeByte m a b) = true := wfFrom_storeByte b ha (Nat.zero_le a) hm

/-- A run of stores inside memory keeps the canonical form. -/
theorem wf_storeBytes : ∀ (bs : List Byte) {m : Memory} {a : Nat}, a + bs.length ≤ 4096 → m.wf = true →
    Memory.wf (storeBytes m a bs) = true
  | [], _, _, _, hm => hm
  | b :: bs, m, a, h, hm => by
    rw [List.length_cons] at h
    exact wf_storeBytes bs (by omega) (wf_storeByte b (by omega) hm)

/-- A run of stores leaves every address outside it alone. -/
theorem loadByte_storeBytes_outside : ∀ (bs : List Byte) (m : Memory) (a k : Nat), k < a ∨ a + bs.length ≤ k →
    loadByte (storeBytes m a bs) k = loadByte m k
  | [], _, _, _, _ => rfl
  | b :: bs, m, a, k, h => by
    rw [List.length_cons] at h
    simp only [storeBytes]
    rw [loadByte_storeBytes_outside bs _ _ k (by omega), loadByte_storeByte_of_ne _ _ _ (by omega)]

/-- A run of stores inside memory is read back as it was stored. -/
theorem loadByte_storeBytes_inside : ∀ (bs : List Byte) {m : Memory} {a : Nat} (k : Nat) (hk : k < bs.length),
    a + bs.length ≤ 4096 → m.wf = true → loadByte (storeBytes m a bs) (a + k) = bs[k]
  | b :: bs, m, a, 0, _, h, hm => by
    simp only [storeBytes, Nat.add_zero, List.getElem_cons_zero]
    rw [loadByte_storeBytes_outside bs _ _ a (by omega), loadByte_storeByte_self a b hm]
  | b :: bs, m, a, k + 1, hk, h, hm => by
    rw [List.length_cons] at hk h
    have := loadByte_storeBytes_inside bs (m := storeByte m a b) (a := a + 1) k (by omega) (by omega)
      (wf_storeByte b (by omega) hm)
    simpa [storeBytes, Nat.add_assoc, Nat.add_comm 1 k] using this

@[simp] theorem length_loadBytes (m : Memory) (a n : Nat) : (loadBytes m a n).length = n := by
  induction n generalizing a with
  | zero => rfl
  | succ n ih => simp [loadBytes, ih]

/-- What a run of reads gives. -/
theorem getElem_loadBytes (m : Memory) (a n k : Nat) (hk : k < (loadBytes m a n).length) :
    (loadBytes m a n)[k] = loadByte m (a + k) := by
  induction n generalizing a k with
  | zero => simp [loadBytes] at hk
  | succ n ih =>
    cases k with
    | zero => rfl
    | succ k =>
      simp only [loadBytes, List.getElem_cons_succ]
      rw [ih]; congr 1; omega

theorem wf_reset : Memory.wf State.reset.mem = true := rfl

end Sys2Proof.Machine
end

