-- ==== Sys2Proof/Laws/State.lean ====
section
/-! SUPPORT. What each update of the state does to each field, so that no proof unfolds a record update. -/

namespace Sys2Proof.Machine

/-! `setReg` -/

@[simp] theorem setReg_v (s : State) (x : Reg) (b : Byte) : (setReg s x b).v = s.v.set x.val b := rfl
@[simp] theorem setReg_i (s : State) (x : Reg) (b : Byte) : (setReg s x b).i = s.i := rfl
@[simp] theorem setReg_pc (s : State) (x : Reg) (b : Byte) : (setReg s x b).pc = s.pc := rfl
@[simp] theorem setReg_sp (s : State) (x : Reg) (b : Byte) : (setReg s x b).sp = s.sp := rfl
@[simp] theorem setReg_stack (s : State) (x : Reg) (b : Byte) : (setReg s x b).stack = s.stack := rfl
@[simp] theorem setReg_dt (s : State) (x : Reg) (b : Byte) : (setReg s x b).dt = s.dt := rfl
@[simp] theorem setReg_st (s : State) (x : Reg) (b : Byte) : (setReg s x b).st = s.st := rfl
@[simp] theorem setReg_key (s : State) (x : Reg) (b : Byte) : (setReg s x b).key = s.key := rfl
@[simp] theorem setReg_fb (s : State) (x : Reg) (b : Byte) : (setReg s x b).fb = s.fb := rfl
@[simp] theorem setReg_mem (s : State) (x : Reg) (b : Byte) : (setReg s x b).mem = s.mem := rfl
@[simp] theorem setReg_halted (s : State) (x : Reg) (b : Byte) : (setReg s x b).halted = s.halted := rfl
@[simp] theorem setReg_faultCause (s : State) (x : Reg) (b : Byte) : (setReg s x b).faultCause = s.faultCause := rfl
@[simp] theorem setReg_faultInfo (s : State) (x : Reg) (b : Byte) : (setReg s x b).faultInfo = s.faultInfo := rfl
@[simp] theorem setReg_faultPc (s : State) (x : Reg) (b : Byte) : (setReg s x b).faultPc = s.faultPc := rfl
@[simp] theorem setReg_draws (s : State) (x : Reg) (b : Byte) : (setReg s x b).draws = s.draws := rfl

/-! `setI` -/

@[simp] theorem setI_v (s : State) (w : Word) : (setI s w).v = s.v := rfl
@[simp] theorem setI_i (s : State) (w : Word) : (setI s w).i = w := rfl
@[simp] theorem setI_pc (s : State) (w : Word) : (setI s w).pc = s.pc := rfl
@[simp] theorem setI_sp (s : State) (w : Word) : (setI s w).sp = s.sp := rfl
@[simp] theorem setI_stack (s : State) (w : Word) : (setI s w).stack = s.stack := rfl
@[simp] theorem setI_dt (s : State) (w : Word) : (setI s w).dt = s.dt := rfl
@[simp] theorem setI_st (s : State) (w : Word) : (setI s w).st = s.st := rfl
@[simp] theorem setI_key (s : State) (w : Word) : (setI s w).key = s.key := rfl
@[simp] theorem setI_fb (s : State) (w : Word) : (setI s w).fb = s.fb := rfl
@[simp] theorem setI_mem (s : State) (w : Word) : (setI s w).mem = s.mem := rfl
@[simp] theorem setI_halted (s : State) (w : Word) : (setI s w).halted = s.halted := rfl
@[simp] theorem setI_faultCause (s : State) (w : Word) : (setI s w).faultCause = s.faultCause := rfl
@[simp] theorem setI_faultInfo (s : State) (w : Word) : (setI s w).faultInfo = s.faultInfo := rfl
@[simp] theorem setI_faultPc (s : State) (w : Word) : (setI s w).faultPc = s.faultPc := rfl
@[simp] theorem setI_draws (s : State) (w : Word) : (setI s w).draws = s.draws := rfl

/-! `advance` -/

@[simp] theorem advance_v (s : State) : (advance s).v = s.v := rfl
@[simp] theorem advance_i (s : State) : (advance s).i = s.i := rfl
@[simp] theorem advance_pc (s : State) : (advance s).pc = s.pc + 2 := rfl
@[simp] theorem advance_sp (s : State) : (advance s).sp = s.sp := rfl
@[simp] theorem advance_stack (s : State) : (advance s).stack = s.stack := rfl
@[simp] theorem advance_dt (s : State) : (advance s).dt = s.dt := rfl
@[simp] theorem advance_st (s : State) : (advance s).st = s.st := rfl
@[simp] theorem advance_key (s : State) : (advance s).key = s.key := rfl
@[simp] theorem advance_fb (s : State) : (advance s).fb = s.fb := rfl
@[simp] theorem advance_mem (s : State) : (advance s).mem = s.mem := rfl
@[simp] theorem advance_halted (s : State) : (advance s).halted = s.halted := rfl
@[simp] theorem advance_faultCause (s : State) : (advance s).faultCause = s.faultCause := rfl
@[simp] theorem advance_faultInfo (s : State) : (advance s).faultInfo = s.faultInfo := rfl
@[simp] theorem advance_faultPc (s : State) : (advance s).faultPc = s.faultPc := rfl
@[simp] theorem advance_draws (s : State) : (advance s).draws = s.draws := rfl

/-! `setPc` -/

@[simp] theorem setPc_v (s : State) (w : Word) : (setPc s w).v = s.v := rfl
@[simp] theorem setPc_i (s : State) (w : Word) : (setPc s w).i = s.i := rfl
@[simp] theorem setPc_pc (s : State) (w : Word) : (setPc s w).pc = w := rfl
@[simp] theorem setPc_sp (s : State) (w : Word) : (setPc s w).sp = s.sp := rfl
@[simp] theorem setPc_stack (s : State) (w : Word) : (setPc s w).stack = s.stack := rfl
@[simp] theorem setPc_dt (s : State) (w : Word) : (setPc s w).dt = s.dt := rfl
@[simp] theorem setPc_st (s : State) (w : Word) : (setPc s w).st = s.st := rfl
@[simp] theorem setPc_key (s : State) (w : Word) : (setPc s w).key = s.key := rfl
@[simp] theorem setPc_fb (s : State) (w : Word) : (setPc s w).fb = s.fb := rfl
@[simp] theorem setPc_mem (s : State) (w : Word) : (setPc s w).mem = s.mem := rfl
@[simp] theorem setPc_halted (s : State) (w : Word) : (setPc s w).halted = s.halted := rfl
@[simp] theorem setPc_faultCause (s : State) (w : Word) : (setPc s w).faultCause = s.faultCause := rfl
@[simp] theorem setPc_faultInfo (s : State) (w : Word) : (setPc s w).faultInfo = s.faultInfo := rfl
@[simp] theorem setPc_faultPc (s : State) (w : Word) : (setPc s w).faultPc = s.faultPc := rfl
@[simp] theorem setPc_draws (s : State) (w : Word) : (setPc s w).draws = s.draws := rfl

/-! `rewind` -/

@[simp] theorem rewind_v (s : State) : (rewind s).v = s.v := rfl
@[simp] theorem rewind_i (s : State) : (rewind s).i = s.i := rfl
@[simp] theorem rewind_pc (s : State) : (rewind s).pc = s.pc - 2 := rfl
@[simp] theorem rewind_sp (s : State) : (rewind s).sp = s.sp := rfl
@[simp] theorem rewind_stack (s : State) : (rewind s).stack = s.stack := rfl
@[simp] theorem rewind_dt (s : State) : (rewind s).dt = s.dt := rfl
@[simp] theorem rewind_st (s : State) : (rewind s).st = s.st := rfl
@[simp] theorem rewind_key (s : State) : (rewind s).key = s.key := rfl
@[simp] theorem rewind_fb (s : State) : (rewind s).fb = s.fb := rfl
@[simp] theorem rewind_mem (s : State) : (rewind s).mem = s.mem := rfl
@[simp] theorem rewind_halted (s : State) : (rewind s).halted = s.halted := rfl
@[simp] theorem rewind_faultCause (s : State) : (rewind s).faultCause = s.faultCause := rfl
@[simp] theorem rewind_faultInfo (s : State) : (rewind s).faultInfo = s.faultInfo := rfl
@[simp] theorem rewind_faultPc (s : State) : (rewind s).faultPc = s.faultPc := rfl
@[simp] theorem rewind_draws (s : State) : (rewind s).draws = s.draws := rfl

/-! `dropTop` -/

@[simp] theorem dropTop_v (s : State) : (dropTop s).v = s.v := rfl
@[simp] theorem dropTop_i (s : State) : (dropTop s).i = s.i := rfl
@[simp] theorem dropTop_pc (s : State) : (dropTop s).pc = s.pc := rfl
@[simp] theorem dropTop_stack (s : State) : (dropTop s).stack = s.stack := rfl
@[simp] theorem dropTop_dt (s : State) : (dropTop s).dt = s.dt := rfl
@[simp] theorem dropTop_st (s : State) : (dropTop s).st = s.st := rfl
@[simp] theorem dropTop_key (s : State) : (dropTop s).key = s.key := rfl
@[simp] theorem dropTop_fb (s : State) : (dropTop s).fb = s.fb := rfl
@[simp] theorem dropTop_mem (s : State) : (dropTop s).mem = s.mem := rfl
@[simp] theorem dropTop_halted (s : State) : (dropTop s).halted = s.halted := rfl
@[simp] theorem dropTop_faultCause (s : State) : (dropTop s).faultCause = s.faultCause := rfl
@[simp] theorem dropTop_faultInfo (s : State) : (dropTop s).faultInfo = s.faultInfo := rfl
@[simp] theorem dropTop_faultPc (s : State) : (dropTop s).faultPc = s.faultPc := rfl
@[simp] theorem dropTop_draws (s : State) : (dropTop s).draws = s.draws := rfl

/-! `loadRegList` -/

@[simp] theorem loadRegList_v (s : State) (bs : List Byte) : (loadRegList s bs).v = setRegsFrom 0 s.v bs := rfl
@[simp] theorem loadRegList_i (s : State) (bs : List Byte) : (loadRegList s bs).i = s.i := rfl
@[simp] theorem loadRegList_pc (s : State) (bs : List Byte) : (loadRegList s bs).pc = s.pc := rfl
@[simp] theorem loadRegList_sp (s : State) (bs : List Byte) : (loadRegList s bs).sp = s.sp := rfl
@[simp] theorem loadRegList_stack (s : State) (bs : List Byte) : (loadRegList s bs).stack = s.stack := rfl
@[simp] theorem loadRegList_dt (s : State) (bs : List Byte) : (loadRegList s bs).dt = s.dt := rfl
@[simp] theorem loadRegList_st (s : State) (bs : List Byte) : (loadRegList s bs).st = s.st := rfl
@[simp] theorem loadRegList_key (s : State) (bs : List Byte) : (loadRegList s bs).key = s.key := rfl
@[simp] theorem loadRegList_fb (s : State) (bs : List Byte) : (loadRegList s bs).fb = s.fb := rfl
@[simp] theorem loadRegList_mem (s : State) (bs : List Byte) : (loadRegList s bs).mem = s.mem := rfl
@[simp] theorem loadRegList_halted (s : State) (bs : List Byte) : (loadRegList s bs).halted = s.halted := rfl
@[simp] theorem loadRegList_faultCause (s : State) (bs : List Byte) : (loadRegList s bs).faultCause = s.faultCause := rfl
@[simp] theorem loadRegList_faultInfo (s : State) (bs : List Byte) : (loadRegList s bs).faultInfo = s.faultInfo := rfl
@[simp] theorem loadRegList_faultPc (s : State) (bs : List Byte) : (loadRegList s bs).faultPc = s.faultPc := rfl
@[simp] theorem loadRegList_draws (s : State) (bs : List Byte) : (loadRegList s bs).draws = s.draws := rfl

/-! `raiseFault` -/

@[simp] theorem raiseFault_v (c : FaultCause) (n : Nat) (s : State) : (raiseFault c n s).v = s.v := rfl
@[simp] theorem raiseFault_i (c : FaultCause) (n : Nat) (s : State) : (raiseFault c n s).i = s.i := rfl
@[simp] theorem raiseFault_pc (c : FaultCause) (n : Nat) (s : State) : (raiseFault c n s).pc = s.pc := rfl
@[simp] theorem raiseFault_sp (c : FaultCause) (n : Nat) (s : State) : (raiseFault c n s).sp = s.sp := rfl
@[simp] theorem raiseFault_stack (c : FaultCause) (n : Nat) (s : State) : (raiseFault c n s).stack = s.stack := rfl
@[simp] theorem raiseFault_dt (c : FaultCause) (n : Nat) (s : State) : (raiseFault c n s).dt = s.dt := rfl
@[simp] theorem raiseFault_st (c : FaultCause) (n : Nat) (s : State) : (raiseFault c n s).st = s.st := rfl
@[simp] theorem raiseFault_key (c : FaultCause) (n : Nat) (s : State) : (raiseFault c n s).key = s.key := rfl
@[simp] theorem raiseFault_fb (c : FaultCause) (n : Nat) (s : State) : (raiseFault c n s).fb = s.fb := rfl
@[simp] theorem raiseFault_mem (c : FaultCause) (n : Nat) (s : State) : (raiseFault c n s).mem = s.mem := rfl
@[simp] theorem raiseFault_halted (c : FaultCause) (n : Nat) (s : State) : (raiseFault c n s).halted = true := rfl
@[simp] theorem raiseFault_faultCause (c : FaultCause) (n : Nat) (s : State) : (raiseFault c n s).faultCause = c := rfl
@[simp] theorem raiseFault_faultInfo (c : FaultCause) (n : Nat) (s : State) : (raiseFault c n s).faultInfo = BitVec.ofNat 16 n := rfl
@[simp] theorem raiseFault_faultPc (c : FaultCause) (n : Nat) (s : State) : (raiseFault c n s).faultPc = s.pc := rfl
@[simp] theorem raiseFault_draws (c : FaultCause) (n : Nat) (s : State) : (raiseFault c n s).draws = s.draws := rfl

@[simp] theorem dropTop_sp_val (s : State) : (dropTop s).sp.val = s.sp.val - 1 := rfl

/-! `push` and `skipIf`, whose updates depend on the state -/

@[simp] theorem push_v (s : State) (a : Word) : (push s a).v = s.v := by unfold push; split <;> rfl
@[simp] theorem push_i (s : State) (a : Word) : (push s a).i = s.i := by unfold push; split <;> rfl
@[simp] theorem push_pc (s : State) (a : Word) : (push s a).pc = s.pc := by unfold push; split <;> rfl
@[simp] theorem push_dt (s : State) (a : Word) : (push s a).dt = s.dt := by unfold push; split <;> rfl
@[simp] theorem push_st (s : State) (a : Word) : (push s a).st = s.st := by unfold push; split <;> rfl
@[simp] theorem push_key (s : State) (a : Word) : (push s a).key = s.key := by unfold push; split <;> rfl
@[simp] theorem push_fb (s : State) (a : Word) : (push s a).fb = s.fb := by unfold push; split <;> rfl
@[simp] theorem push_mem (s : State) (a : Word) : (push s a).mem = s.mem := by unfold push; split <;> rfl
@[simp] theorem push_halted (s : State) (a : Word) : (push s a).halted = s.halted := by unfold push; split <;> rfl
@[simp] theorem push_faultCause (s : State) (a : Word) : (push s a).faultCause = s.faultCause := by unfold push; split <;> rfl
@[simp] theorem push_faultInfo (s : State) (a : Word) : (push s a).faultInfo = s.faultInfo := by unfold push; split <;> rfl
@[simp] theorem push_faultPc (s : State) (a : Word) : (push s a).faultPc = s.faultPc := by unfold push; split <;> rfl
@[simp] theorem push_draws (s : State) (a : Word) : (push s a).draws = s.draws := by unfold push; split <;> rfl

/-- What `push` does when a slot is free (10_state.md R25). -/
theorem push_of_lt (s : State) (a : Word) (h : s.sp.val < 16) :
    (push s a).sp.val = s.sp.val + 1 ∧ (push s a).stack = s.stack.set s.sp.val a := by simp [push, h]

/-- What `push` does when the stack is full: nothing (10_state.md R25). -/
theorem push_of_full (s : State) (a : Word) (h : ¬ s.sp.val < 16) : push s a = s := by simp [push, h]

/-- What a push leaves in each slot; a full stack has no slot 16 to write (10_state.md R25). -/
theorem getElem_stack_push (s : State) (a : Word) (j : Nat) (hj : j < 16) :
    (push s a).stack[j] = if s.sp.val = j then a else s.stack[j] := by
  by_cases h : s.sp.val < 16
  · simp [push, h, Vector.getElem_set]
  · have : s.sp.val ≠ j := by omega
    simp [push, h, this]

@[simp] theorem skipIf_v (c : Bool) (s : State) : (skipIf c s).v = s.v := by cases c <;> rfl
@[simp] theorem skipIf_i (c : Bool) (s : State) : (skipIf c s).i = s.i := by cases c <;> rfl
@[simp] theorem skipIf_sp (c : Bool) (s : State) : (skipIf c s).sp = s.sp := by cases c <;> rfl
@[simp] theorem skipIf_stack (c : Bool) (s : State) : (skipIf c s).stack = s.stack := by cases c <;> rfl
@[simp] theorem skipIf_dt (c : Bool) (s : State) : (skipIf c s).dt = s.dt := by cases c <;> rfl
@[simp] theorem skipIf_st (c : Bool) (s : State) : (skipIf c s).st = s.st := by cases c <;> rfl
@[simp] theorem skipIf_key (c : Bool) (s : State) : (skipIf c s).key = s.key := by cases c <;> rfl
@[simp] theorem skipIf_fb (c : Bool) (s : State) : (skipIf c s).fb = s.fb := by cases c <;> rfl
@[simp] theorem skipIf_mem (c : Bool) (s : State) : (skipIf c s).mem = s.mem := by cases c <;> rfl
@[simp] theorem skipIf_halted (c : Bool) (s : State) : (skipIf c s).halted = s.halted := by cases c <;> rfl
@[simp] theorem skipIf_faultCause (c : Bool) (s : State) : (skipIf c s).faultCause = s.faultCause := by cases c <;> rfl
@[simp] theorem skipIf_faultInfo (c : Bool) (s : State) : (skipIf c s).faultInfo = s.faultInfo := by cases c <;> rfl
@[simp] theorem skipIf_faultPc (c : Bool) (s : State) : (skipIf c s).faultPc = s.faultPc := by cases c <;> rfl
@[simp] theorem skipIf_draws (c : Bool) (s : State) : (skipIf c s).draws = s.draws := by cases c <;> rfl
@[simp] theorem skipIf_pc (c : Bool) (s : State) : (skipIf c s).pc = if c then s.pc + 2 else s.pc := by cases c <;> rfl

end Sys2Proof.Machine
end

