-- ==== Sys2Proof/Laws/Ops.lean ====
section
/-! SUPPORT. One lemma per shared operation that says once what it can do. -/

namespace Sys2Proof.Machine

/-! ## Registers -/

theorem getReg_setReg (s : State) (x r : Reg) (b : Byte) :
    getReg (setReg s x b) r = if r = x then b else getReg s r := by
  simp only [getReg, setReg_v, Vector.getElem_set, Fin.ext_iff, eq_comm]

@[simp] theorem getReg_setReg_self (s : State) (x : Reg) (b : Byte) : getReg (setReg s x b) x = b := by
  simp [getReg_setReg]

theorem getReg_setReg_of_ne (s : State) {x r : Reg} (b : Byte) (h : r ≠ x) :
    getReg (setReg s x b) r = getReg s r := by simp [getReg_setReg, h]

/-- Two states with the same register file read the same registers. -/
theorem getReg_congr {s t : State} (h : t.v = s.v) (r : Reg) : getReg t r = getReg s r := by simp [getReg, h]

@[simp] theorem getReg_advance (s : State) (r : Reg) : getReg (advance s) r = getReg s r := rfl

/-- What a flag-writing instruction leaves in each register: the result in `V[x]`, else the flag in VF (43_alu.md R120). -/
theorem getReg_writeFlagThenReg (s : State) (flag : Byte) (x r : Reg) (b : Byte) :
    getReg (writeFlagThenReg s flag x b) r = if r = x then b else if r = vf then flag else getReg s r := by
  simp [writeFlagThenReg, getReg_setReg]

theorem flagByte_eq (c : Bool) : flagByte c = 0 ∨ flagByte c = 1 := by cases c <;> simp [flagByte]

/-- What a run of register writes leaves in each register. -/
theorem getElem_setRegsFrom (r : Nat) (hr : r < 16) : ∀ (bs : List Byte) (k : Nat) (v : Vector Byte 16),
    (setRegsFrom k v bs)[r] = if h : k ≤ r ∧ r < k + bs.length then bs[r - k] else v[r]
  | [], k, v => by rw [dif_neg (by simp only [List.length_nil]; omega)]; rfl
  | b :: bs, k, v => by
    rw [setRegsFrom, getElem_setRegsFrom r hr bs (k + 1)]
    by_cases h1 : k = r
    · subst h1; simp
    · by_cases h2 : k + 1 ≤ r ∧ r < k + 1 + bs.length
      · rw [dif_pos h2, dif_pos (by simp only [List.length_cons]; omega), List.getElem_cons, dif_neg (by omega)]; rfl
      · rw [dif_neg h2, dif_neg (by simp only [List.length_cons]; omega), Vector.getElem_setIfInBounds, if_neg h1]

/-- What `FX65` leaves in each register. -/
theorem getReg_loadRegList (s : State) (bs : List Byte) (r : Reg) :
    getReg (loadRegList s bs) r = if h : r.val < bs.length then bs[r.val] else getReg s r := by
  have := getElem_setRegsFrom r.val r.isLt bs 0 s.v
  simpa [getReg] using this

@[simp] theorem length_regList (s : State) (x : Reg) : (regList s x).length = x.val + 1 := by
  simp only [regList, List.length_take, Vector.length_toList]; omega

/-- The list `FX55` stores. -/
theorem getElem_regList (s : State) (x r : Reg) (h : r.val < (regList s x).length) :
    (regList s x)[r.val] = getReg s r := by simp [regList, getReg]

/-! ## The stack -/

theorem topOfStack_empty (s : State) (h : s.sp = 0) : topOfStack s = 0 := by simp [topOfStack, h]

theorem topOfStack_of_pos (s : State) (j : Fin 16) (h : s.sp.val = j.val + 1) : topOfStack s = s.stack[j.val] := by
  simp [topOfStack, h]

/-! ## Memory ranges -/

/-- The two outcomes of an instruction that touches memory (60_exceptions.md R170). -/
theorem withRange_cases (s t : State) (len : Nat) (done : State) (h : withRange s len done = .next t) :
    ((1 ≤ len ∧ 4095 < s.i.toNat + len - 1) ∧ t = raiseFault .dataOutOfBounds (s.i.toNat + len - 1) s) ∨
      (¬ (1 ≤ len ∧ 4095 < s.i.toNat + len - 1) ∧ t = done) := by
  unfold withRange at h
  split at h <;> cases h
  · exact .inl ⟨‹_›, rfl⟩
  · exact .inr ⟨‹_›, rfl⟩

theorem withRange_ok (s : State) (len : Nat) (done : State) (h : len = 0 ∨ s.i.toNat + len ≤ 4096) :
    withRange s len done = .next done := if_neg (by omega)

theorem withRange_fault (s : State) (len : Nat) (done : State) (h : 1 ≤ len ∧ 4095 < s.i.toNat + len - 1) :
    withRange s len done = .next (raiseFault .dataOutOfBounds (s.i.toNat + len - 1) s) := if_pos h

/-! ## Keys -/

theorem isKeyPressed_of_lt (s : State) (k : Nat) (h : k < 16) : isKeyPressed s k = s.key[k] := by
  simp [isKeyPressed, h]

/-- An integer that is no key code names no key (10_state.md R30). -/
theorem isKeyPressed_of_not_code (s : State) (k : Int) (h : k < 0 ∨ 15 < k) : isKeyPressed s k = false :=
  dif_neg (by omega)

theorem isKeyPressed_of_ge (s : State) (k : Nat) (h : 16 ≤ k) : isKeyPressed s k = false :=
  isKeyPressed_of_not_code s k (by omega)

theorem firstKeyFrom_none (s : State) : ∀ (n k : Nat), firstKeyFrom s k n = none ↔
    ∀ j, k ≤ j → j < k + n → isKeyPressed s j = false
  | 0, k => by simp only [firstKeyFrom, true_iff]; omega
  | n + 1, k => by
    unfold firstKeyFrom
    split
    · rename_i h
      simp only [reduceCtorEq, false_iff]
      intro hall
      simp [hall k (by omega) (by omega)] at h
    · rename_i h
      rw [firstKeyFrom_none s n (k + 1)]
      refine ⟨fun hall j h1 h2 => ?_, fun hall j h1 h2 => hall j (by omega) (by omega)⟩
      by_cases hj : j = k
      · subst hj; simpa using h
      · exact hall j (by omega) (by omega)

theorem firstKeyFrom_some (s : State) : ∀ (n k r : Nat), firstKeyFrom s k n = some r →
    k ≤ r ∧ r < k + n ∧ isKeyPressed s r = true ∧ ∀ j, k ≤ j → j < r → isKeyPressed s j = false
  | 0, k, r, h => by simp [firstKeyFrom] at h
  | n + 1, k, r, h => by
    unfold firstKeyFrom at h
    split at h
    · rename_i hk; cases h; exact ⟨by omega, by omega, hk, fun j h1 h2 => by omega⟩
    · rename_i hk
      obtain ⟨h1, h2, h3, h4⟩ := firstKeyFrom_some s n (k + 1) r h
      refine ⟨by omega, by omega, h3, fun j h5 h6 => ?_⟩
      by_cases hj : j = k
      · subst hj; simpa using hk
      · exact h4 j (by omega) h6

/-! ## The framebuffer -/

/-- A toggle changes one pixel and no other (45_display.md R151). -/
theorem pixelAt_togglePixel (f : Frame) (x y px py : Nat) :
    pixelAt (togglePixel f x y) px py =
      if px % 64 = x % 64 ∧ py % 32 = y % 32 then !pixelAt f px py else pixelAt f px py := by
  simp only [pixelAt, togglePixel, Vector.getElem_set]
  by_cases hy : y % 32 = py % 32
  · by_cases hx : x % 64 = px % 64
    · simp [hx, hy]
    · simp [hx, hy, Ne.symm hx]
  · simp [hy, Ne.symm hy]

@[simp] theorem pixelAt_clearFrame (x y : Nat) : pixelAt clearFrame x y = false := by simp [pixelAt, clearFrame]

/-- Pixel addresses wrap on both axes (10_state.md R32). -/
theorem pixelAt_mod (f : Frame) (x y : Nat) : pixelAt f (x % 64) (y % 32) = pixelAt f x y := by simp [pixelAt]

/-! ## Host events -/

/-- An event on a halted core does nothing (60_exceptions.md R172). -/
theorem unlessHalted_of_halted (s after : State) (h : s.halted = true) : unlessHalted s after = s := if_pos h

theorem unlessHalted_of_running (s after : State) (h : s.halted = false) : unlessHalted s after = after :=
  if_neg (by simp [h])

/-- A timer tick on the number it holds (60_exceptions.md R180). -/
theorem toNat_countDown (b : Byte) : (countDown b).toNat = b.toNat - 1 := by
  unfold countDown
  split
  · rename_i h; simp [h]
  · rename_i h
    have h0 : b.toNat ≠ 0 := fun h' => h (BitVec.eq_of_toNat_eq h')
    have := b.isLt
    have h1 : (1 : Byte).toNat = 1 := rfl
    have h0' : (0 : Byte).toNat = 0 := rfl
    rw [BitVec.toNat_sub, h1]
    omega

/-! ## The cycle -/

/-- Everything one `STEP` can do (40_execute_cycle.md R90). -/
theorem runCycle_cases (run : Instr → State → Result) (s : State) :
    (s.halted = true ∧ runCycle run s = .next s) ∨
    (s.halted = false ∧ 4094 < s.pc.toNat ∧ runCycle run s = .next (raiseFault .fetchOutOfBounds s.pc.toNat s)) ∨
    (s.halted = false ∧ s.pc.toNat ≤ 4094 ∧ ∃ i, decodeWord (fetchWord s) = .instr i ∧ runCycle run s = run i s) ∨
    (s.halted = false ∧ s.pc.toNat ≤ 4094 ∧ (∀ i, decodeWord (fetchWord s) ≠ .instr i) ∧
      runCycle run s = .next (advance s)) := by
  unfold runCycle
  cases hh : s.halted with
  | true => exact .inl ⟨rfl, if_pos rfl⟩
  | false =>
    right
    simp only [Bool.false_eq_true, if_false, fetchFaults, decide_eq_true_eq]
    split
    · rename_i h; exact .inl ⟨trivial, h, rfl⟩
    · rename_i h
      right
      cases hd : decodeWord (fetchWord s) with
      | instr i => exact .inl ⟨trivial, by omega, i, rfl, rfl⟩
      | unknown w => exact .inr ⟨trivial, by omega, by simp, rfl⟩
      | short => exact .inr ⟨trivial, by omega, by simp, rfl⟩

end Sys2Proof.Machine
end

