-- ==== Sys2Proof/Laws/Frame.lean ====
section
/-! SUPPORT. How the frame predicates compose, what a fault leaves, and when two framebuffers are equal. -/

namespace Sys2Proof.Machine

theorem Unchanged.trans {s t u : State} {p : Part} (h : Unchanged s t p) (k : Unchanged t u p) : Unchanged s u p := by
  cases p with
  | regs => exact fun r => (k r).trans (h r)
  | index => exact Eq.trans k h
  | stack => exact ⟨k.1.trans h.1, fun j => (k.2 j).trans (h.2 j)⟩
  | delay => exact Eq.trans k h
  | sound => exact Eq.trans k h
  | keys => exact fun j => (k j).trans (h j)
  | display => exact fun x y => (k x y).trans (h x y)
  | memory => exact fun a => (k a).trans (h a)
  | latch => exact ⟨k.1.trans h.1, k.2.1.trans h.2.1, k.2.2.1.trans h.2.2.1, k.2.2.2.trans h.2.2.2⟩
  | draws => exact Eq.trans k h

theorem KeepsAllBut.trans {ps qs : List Part} {s t u : State} (h : KeepsAllBut ps s t) (k : KeepsAllBut qs t u) :
    KeepsAllBut (ps ++ qs) s u := fun p hp => by
  rw [List.mem_append, not_or] at hp
  exact (h p hp.1).trans (k p hp.2)

theorem KeepsAllBut.mono {ps qs : List Part} {s t : State} (h : KeepsAllBut ps s t) (hs : ∀ p ∈ ps, p ∈ qs) :
    KeepsAllBut qs s t := fun p hp => h p fun hp' => hp (hs p hp')

/-- Taking a fault touches the latch alone (60_exceptions.md R172). -/
theorem keepsAllBut_raiseFault (c : FaultCause) (n : Nat) (s : State) : KeepsAllBut [.latch] s (raiseFault c n s) := by
  intro p hp
  cases p <;> first | exact absurd (List.mem_singleton.2 rfl) hp | simp [Unchanged, getReg]

/-- Two framebuffers with the same 2048 pixels are equal. -/
theorem frame_ext (f g : Frame) (h : ∀ x y, x < 64 → y < 32 → pixelAt f x y = pixelAt g x y) : f = g := by
  apply Vector.ext
  intro y hy
  apply Vector.ext
  intro x hx
  have := h x y hx hy
  simpa [pixelAt, Nat.mod_eq_of_lt hx, Nat.mod_eq_of_lt hy] using this

end Sys2Proof.Machine
end

