-- ==== Sys2Proof/Laws/Operands.lean ====
section
/-! SUPPORT. The computed operands as numbers. -/

namespace Sys2Proof.Machine

@[simp] theorem toNat_zext16 (nnn : Imm12) : (zext16 nnn).toNat = nnn.toNat := by
  have := nnn.isLt
  simp only [zext16, BitVec.toNat_setWidth]
  omega

/-- The `BNNN` sum never wraps (41_control_transfer.md R103). -/
theorem toNat_offsetTarget (s : State) (nnn : Imm12) :
    (offsetTarget s nnn).toNat = nnn.toNat + (getReg s 0).toNat := by
  have := nnn.isLt
  have := (getReg s 0).isLt
  simp only [offsetTarget, BitVec.toNat_add, toNat_zext16, BitVec.toNat_setWidth]
  omega

theorem toNat_fontAddress (v : Byte) : (fontAddress v).toNat = 0x050 + 5 * v.toNat := by
  have := v.isLt
  simp only [fontAddress, Config.fontBase, BitVec.toNat_ofNat]
  omega

theorem toNat_truncatedIndex (n : Nat) : (truncatedIndex n).toNat = n % 0x1000 := by
  simp only [truncatedIndex, Config.indexModulus, BitVec.toNat_ofNat]
  omega

/-- The advance of `pc` as a number: inside memory it does not wrap (40_execute_cycle.md R91). -/
theorem toNat_pc_add_two {s : State} (h : s.pc.toNat ≤ 4094) : (s.pc + 2).toNat = s.pc.toNat + 2 := by
  have h2 : (2 : Word).toNat = 2 := rfl
  rw [BitVec.toNat_add, h2]
  omega

@[simp] theorem length_decimalDigits (v : Byte) : (decimalDigits v).length = 3 := rfl

@[simp] theorem length_spriteRows (s : State) (n : Imm4) : (spriteRows s n).length = n.toNat := length_loadBytes _ _ _

end Sys2Proof.Machine
end

