-- ==== Sys2Proof/Laws/PerInstr.lean ====
section
/-! SUPPORT. Two families of statements about every instruction as syntax: its operands fit their fields, and its encoding
carries the mask and match of its row of 30_encoding.md R74. -/

namespace Sys2Proof.Laws

/-- Every operand fits its field (30_encoding.md R72). -/
def Fits.Statement (i : Instr) : Prop := i.wellFormed = true

/-- The encoding satisfies the mask and match of the instruction's row (30_encoding.md R74). -/
def OpcodeRow.Statement (i : Instr) : Prop :=
  ∃ mask pattern : Word, (i.pattern, mask, pattern) ∈ opcodeMap ∧ encode i &&& mask = pattern

theorem fitsField_reg (x : Reg) : fitsField x.val 4 = true := by simp [fitsField]

theorem fitsField_bits {n : Nat} (b : BitVec n) : fitsField b.toNat n = true := by simp [fitsField, b.isLt]

theorem row_F000 (w : Word) (p : Nat) (h : w.toNat / 0x1000 = p) :
    w &&& 0xF000#16 = BitVec.ofNat 16 (p * 0x1000) := by
  apply BitVec.eq_of_toNat_eq
  rw [toNat_and_F000, h, BitVec.toNat_ofNat]; omega

theorem row_F00F (w : Word) (p q : Nat) (h : w.toNat / 0x1000 = p)
    (h' : w.toNat % 0x10 = q) : w &&& 0xF00F#16 = BitVec.ofNat 16 (p * 0x1000 + q) := by
  apply BitVec.eq_of_toNat_eq
  rw [toNat_and_F00F, h, h', BitVec.toNat_ofNat]; omega

theorem row_F0FF (w : Word) (p q : Nat) (h : w.toNat / 0x1000 = p)
    (h' : w.toNat % 0x100 = q) : w &&& 0xF0FF#16 = BitVec.ofNat 16 (p * 0x1000 + q) := by
  apply BitVec.eq_of_toNat_eq
  rw [toNat_and_F0FF, h, h', BitVec.toNat_ofNat]; omega

theorem rowNNN (p : Nat) (hp : p < 16) (nnn : Imm12) : encodeNNN p nnn &&& 0xF000 = BitVec.ofNat 16 (p * 0x1000) :=
  row_F000 _ p (by rw [toNat_encodeNNN _ _ hp]; have := nnn.isLt; omega)

theorem rowXNN (p : Nat) (hp : p < 16) (x : Reg) (nn : Byte) :
    encodeXNN p x nn &&& 0xF000 = BitVec.ofNat 16 (p * 0x1000) :=
  row_F000 _ p (by rw [toNat_encodeXNN _ _ _ hp]; have := nn.isLt; have := x.isLt; omega)

theorem rowXY (p q : Nat) (hp : p < 16) (hq : q < 16) (x y : Reg) :
    encodeXYN p x y q &&& 0xF00F = BitVec.ofNat 16 (p * 0x1000 + q) := by
  have h := toNat_encodeXYN p x y q hp hq
  have := x.isLt; have := y.isLt
  exact row_F00F _ p q (by omega) (by omega)

theorem rowX (p q : Nat) (hp : p < 16) (hq : q < 256) (x : Reg) :
    encodeX p x q &&& 0xF0FF = BitVec.ofNat 16 (p * 0x1000 + q) := by
  have h := toNat_encodeX p x q hp hq
  have := x.isLt
  exact row_F0FF _ p q (by omega) (by omega)

theorem Fits.cls : Fits.Statement (.cls) := by
  simp [Fits.Statement, Instr.wellFormed, Instr.operands]
theorem Fits.ret : Fits.Statement (.ret) := by
  simp [Fits.Statement, Instr.wellFormed, Instr.operands]
theorem Fits.jp (nnn : Imm12) : Fits.Statement (.jp nnn) := by
  simp [Fits.Statement, Instr.wellFormed, Instr.operands, fitsField_bits]
theorem Fits.call (nnn : Imm12) : Fits.Statement (.call nnn) := by
  simp [Fits.Statement, Instr.wellFormed, Instr.operands, fitsField_bits]
theorem Fits.seImm (x : Reg) (nn : Byte) : Fits.Statement (.seImm x nn) := by
  simp [Fits.Statement, Instr.wellFormed, Instr.operands, fitsField_reg, fitsField_bits]
theorem Fits.sneImm (x : Reg) (nn : Byte) : Fits.Statement (.sneImm x nn) := by
  simp [Fits.Statement, Instr.wellFormed, Instr.operands, fitsField_reg, fitsField_bits]
theorem Fits.seReg (x y : Reg) : Fits.Statement (.seReg x y) := by
  simp [Fits.Statement, Instr.wellFormed, Instr.operands, fitsField_reg]
theorem Fits.ldImm (x : Reg) (nn : Byte) : Fits.Statement (.ldImm x nn) := by
  simp [Fits.Statement, Instr.wellFormed, Instr.operands, fitsField_reg, fitsField_bits]
theorem Fits.addImm (x : Reg) (nn : Byte) : Fits.Statement (.addImm x nn) := by
  simp [Fits.Statement, Instr.wellFormed, Instr.operands, fitsField_reg, fitsField_bits]
theorem Fits.ldReg (x y : Reg) : Fits.Statement (.ldReg x y) := by
  simp [Fits.Statement, Instr.wellFormed, Instr.operands, fitsField_reg]
theorem Fits.orReg (x y : Reg) : Fits.Statement (.orReg x y) := by
  simp [Fits.Statement, Instr.wellFormed, Instr.operands, fitsField_reg]
theorem Fits.andReg (x y : Reg) : Fits.Statement (.andReg x y) := by
  simp [Fits.Statement, Instr.wellFormed, Instr.operands, fitsField_reg]
theorem Fits.xorReg (x y : Reg) : Fits.Statement (.xorReg x y) := by
  simp [Fits.Statement, Instr.wellFormed, Instr.operands, fitsField_reg]
theorem Fits.addReg (x y : Reg) : Fits.Statement (.addReg x y) := by
  simp [Fits.Statement, Instr.wellFormed, Instr.operands, fitsField_reg]
theorem Fits.subReg (x y : Reg) : Fits.Statement (.subReg x y) := by
  simp [Fits.Statement, Instr.wellFormed, Instr.operands, fitsField_reg]
theorem Fits.shr (x y : Reg) : Fits.Statement (.shr x y) := by
  simp [Fits.Statement, Instr.wellFormed, Instr.operands, fitsField_reg]
theorem Fits.subnReg (x y : Reg) : Fits.Statement (.subnReg x y) := by
  simp [Fits.Statement, Instr.wellFormed, Instr.operands, fitsField_reg]
theorem Fits.shl (x y : Reg) : Fits.Statement (.shl x y) := by
  simp [Fits.Statement, Instr.wellFormed, Instr.operands, fitsField_reg]
theorem Fits.sneReg (x y : Reg) : Fits.Statement (.sneReg x y) := by
  simp [Fits.Statement, Instr.wellFormed, Instr.operands, fitsField_reg]
theorem Fits.ldI (nnn : Imm12) : Fits.Statement (.ldI nnn) := by
  simp [Fits.Statement, Instr.wellFormed, Instr.operands, fitsField_bits]
theorem Fits.jpV0 (nnn : Imm12) : Fits.Statement (.jpV0 nnn) := by
  simp [Fits.Statement, Instr.wellFormed, Instr.operands, fitsField_bits]
theorem Fits.rnd (x : Reg) (nn : Byte) : Fits.Statement (.rnd x nn) := by
  simp [Fits.Statement, Instr.wellFormed, Instr.operands, fitsField_reg, fitsField_bits]
theorem Fits.drw (x y : Reg) (n : Imm4) : Fits.Statement (.drw x y n) := by
  simp [Fits.Statement, Instr.wellFormed, Instr.operands, fitsField_reg, fitsField_bits]
theorem Fits.skp (x : Reg) : Fits.Statement (.skp x) := by
  simp [Fits.Statement, Instr.wellFormed, Instr.operands, fitsField_reg]
theorem Fits.sknp (x : Reg) : Fits.Statement (.sknp x) := by
  simp [Fits.Statement, Instr.wellFormed, Instr.operands, fitsField_reg]
theorem Fits.ldFromDt (x : Reg) : Fits.Statement (.ldFromDt x) := by
  simp [Fits.Statement, Instr.wellFormed, Instr.operands, fitsField_reg]
theorem Fits.waitKey (x : Reg) : Fits.Statement (.waitKey x) := by
  simp [Fits.Statement, Instr.wellFormed, Instr.operands, fitsField_reg]
theorem Fits.ldDt (x : Reg) : Fits.Statement (.ldDt x) := by
  simp [Fits.Statement, Instr.wellFormed, Instr.operands, fitsField_reg]
theorem Fits.ldSt (x : Reg) : Fits.Statement (.ldSt x) := by
  simp [Fits.Statement, Instr.wellFormed, Instr.operands, fitsField_reg]
theorem Fits.addI (x : Reg) : Fits.Statement (.addI x) := by
  simp [Fits.Statement, Instr.wellFormed, Instr.operands, fitsField_reg]
theorem Fits.ldFont (x : Reg) : Fits.Statement (.ldFont x) := by
  simp [Fits.Statement, Instr.wellFormed, Instr.operands, fitsField_reg]
theorem Fits.bcd (x : Reg) : Fits.Statement (.bcd x) := by
  simp [Fits.Statement, Instr.wellFormed, Instr.operands, fitsField_reg]
theorem Fits.storeRegs (x : Reg) : Fits.Statement (.storeRegs x) := by
  simp [Fits.Statement, Instr.wellFormed, Instr.operands, fitsField_reg]
theorem Fits.loadRegs (x : Reg) : Fits.Statement (.loadRegs x) := by
  simp [Fits.Statement, Instr.wellFormed, Instr.operands, fitsField_reg]

theorem OpcodeRow.cls : OpcodeRow.Statement .cls := ⟨0xFFFF, 0x00E0, by decide, by decide⟩
theorem OpcodeRow.ret : OpcodeRow.Statement .ret := ⟨0xFFFF, 0x00EE, by decide, by decide⟩
theorem OpcodeRow.jp (nnn : Imm12) : OpcodeRow.Statement (.jp nnn) :=
  ⟨0xF000, 0x1000, by simp [Instr.pattern, opcodeMap], rowNNN 0x1 (by decide) nnn⟩
theorem OpcodeRow.call (nnn : Imm12) : OpcodeRow.Statement (.call nnn) :=
  ⟨0xF000, 0x2000, by simp [Instr.pattern, opcodeMap], rowNNN 0x2 (by decide) nnn⟩
theorem OpcodeRow.seImm (x : Reg) (nn : Byte) : OpcodeRow.Statement (.seImm x nn) :=
  ⟨0xF000, 0x3000, by simp [Instr.pattern, opcodeMap], rowXNN 0x3 (by decide) x nn⟩
theorem OpcodeRow.sneImm (x : Reg) (nn : Byte) : OpcodeRow.Statement (.sneImm x nn) :=
  ⟨0xF000, 0x4000, by simp [Instr.pattern, opcodeMap], rowXNN 0x4 (by decide) x nn⟩
theorem OpcodeRow.seReg (x y : Reg) : OpcodeRow.Statement (.seReg x y) :=
  ⟨0xF00F, 0x5000, by simp [Instr.pattern, opcodeMap], rowXY 0x5 0x0 (by decide) (by decide) x y⟩
theorem OpcodeRow.ldImm (x : Reg) (nn : Byte) : OpcodeRow.Statement (.ldImm x nn) :=
  ⟨0xF000, 0x6000, by simp [Instr.pattern, opcodeMap], rowXNN 0x6 (by decide) x nn⟩
theorem OpcodeRow.addImm (x : Reg) (nn : Byte) : OpcodeRow.Statement (.addImm x nn) :=
  ⟨0xF000, 0x7000, by simp [Instr.pattern, opcodeMap], rowXNN 0x7 (by decide) x nn⟩
theorem OpcodeRow.ldReg (x y : Reg) : OpcodeRow.Statement (.ldReg x y) :=
  ⟨0xF00F, 0x8000, by simp [Instr.pattern, opcodeMap], rowXY 0x8 0x0 (by decide) (by decide) x y⟩
theorem OpcodeRow.orReg (x y : Reg) : OpcodeRow.Statement (.orReg x y) :=
  ⟨0xF00F, 0x8001, by simp [Instr.pattern, opcodeMap], rowXY 0x8 0x1 (by decide) (by decide) x y⟩
theorem OpcodeRow.andReg (x y : Reg) : OpcodeRow.Statement (.andReg x y) :=
  ⟨0xF00F, 0x8002, by simp [Instr.pattern, opcodeMap], rowXY 0x8 0x2 (by decide) (by decide) x y⟩
theorem OpcodeRow.xorReg (x y : Reg) : OpcodeRow.Statement (.xorReg x y) :=
  ⟨0xF00F, 0x8003, by simp [Instr.pattern, opcodeMap], rowXY 0x8 0x3 (by decide) (by decide) x y⟩
theorem OpcodeRow.addReg (x y : Reg) : OpcodeRow.Statement (.addReg x y) :=
  ⟨0xF00F, 0x8004, by simp [Instr.pattern, opcodeMap], rowXY 0x8 0x4 (by decide) (by decide) x y⟩
theorem OpcodeRow.subReg (x y : Reg) : OpcodeRow.Statement (.subReg x y) :=
  ⟨0xF00F, 0x8005, by simp [Instr.pattern, opcodeMap], rowXY 0x8 0x5 (by decide) (by decide) x y⟩
theorem OpcodeRow.shr (x y : Reg) : OpcodeRow.Statement (.shr x y) :=
  ⟨0xF00F, 0x8006, by simp [Instr.pattern, opcodeMap], rowXY 0x8 0x6 (by decide) (by decide) x y⟩
theorem OpcodeRow.subnReg (x y : Reg) : OpcodeRow.Statement (.subnReg x y) :=
  ⟨0xF00F, 0x8007, by simp [Instr.pattern, opcodeMap], rowXY 0x8 0x7 (by decide) (by decide) x y⟩
theorem OpcodeRow.shl (x y : Reg) : OpcodeRow.Statement (.shl x y) :=
  ⟨0xF00F, 0x800E, by simp [Instr.pattern, opcodeMap], rowXY 0x8 0xE (by decide) (by decide) x y⟩
theorem OpcodeRow.sneReg (x y : Reg) : OpcodeRow.Statement (.sneReg x y) :=
  ⟨0xF00F, 0x9000, by simp [Instr.pattern, opcodeMap], rowXY 0x9 0x0 (by decide) (by decide) x y⟩
theorem OpcodeRow.ldI (nnn : Imm12) : OpcodeRow.Statement (.ldI nnn) :=
  ⟨0xF000, 0xA000, by simp [Instr.pattern, opcodeMap], rowNNN 0xA (by decide) nnn⟩
theorem OpcodeRow.jpV0 (nnn : Imm12) : OpcodeRow.Statement (.jpV0 nnn) :=
  ⟨0xF000, 0xB000, by simp [Instr.pattern, opcodeMap], rowNNN 0xB (by decide) nnn⟩
theorem OpcodeRow.rnd (x : Reg) (nn : Byte) : OpcodeRow.Statement (.rnd x nn) :=
  ⟨0xF000, 0xC000, by simp [Instr.pattern, opcodeMap], rowXNN 0xC (by decide) x nn⟩
theorem OpcodeRow.drw (x y : Reg) (n : Imm4) : OpcodeRow.Statement (.drw x y n) :=
  ⟨0xF000, 0xD000, by simp [Instr.pattern, opcodeMap], row_F000 _ 0xD (by have h := toNat_encodeXYN 0xD x y n.toNat (by decide) n.isLt; rw [encode, h]; have := n.isLt; have := x.isLt; have := y.isLt; omega)⟩
theorem OpcodeRow.skp (x : Reg) : OpcodeRow.Statement (.skp x) :=
  ⟨0xF0FF, 0xE09E, by simp [Instr.pattern, opcodeMap], rowX 0xE 0x9E (by decide) (by decide) x⟩
theorem OpcodeRow.sknp (x : Reg) : OpcodeRow.Statement (.sknp x) :=
  ⟨0xF0FF, 0xE0A1, by simp [Instr.pattern, opcodeMap], rowX 0xE 0xA1 (by decide) (by decide) x⟩
theorem OpcodeRow.ldFromDt (x : Reg) : OpcodeRow.Statement (.ldFromDt x) :=
  ⟨0xF0FF, 0xF007, by simp [Instr.pattern, opcodeMap], rowX 0xF 0x07 (by decide) (by decide) x⟩
theorem OpcodeRow.waitKey (x : Reg) : OpcodeRow.Statement (.waitKey x) :=
  ⟨0xF0FF, 0xF00A, by simp [Instr.pattern, opcodeMap], rowX 0xF 0x0A (by decide) (by decide) x⟩
theorem OpcodeRow.ldDt (x : Reg) : OpcodeRow.Statement (.ldDt x) :=
  ⟨0xF0FF, 0xF015, by simp [Instr.pattern, opcodeMap], rowX 0xF 0x15 (by decide) (by decide) x⟩
theorem OpcodeRow.ldSt (x : Reg) : OpcodeRow.Statement (.ldSt x) :=
  ⟨0xF0FF, 0xF018, by simp [Instr.pattern, opcodeMap], rowX 0xF 0x18 (by decide) (by decide) x⟩
theorem OpcodeRow.addI (x : Reg) : OpcodeRow.Statement (.addI x) :=
  ⟨0xF0FF, 0xF01E, by simp [Instr.pattern, opcodeMap], rowX 0xF 0x1E (by decide) (by decide) x⟩
theorem OpcodeRow.ldFont (x : Reg) : OpcodeRow.Statement (.ldFont x) :=
  ⟨0xF0FF, 0xF029, by simp [Instr.pattern, opcodeMap], rowX 0xF 0x29 (by decide) (by decide) x⟩
theorem OpcodeRow.bcd (x : Reg) : OpcodeRow.Statement (.bcd x) :=
  ⟨0xF0FF, 0xF033, by simp [Instr.pattern, opcodeMap], rowX 0xF 0x33 (by decide) (by decide) x⟩
theorem OpcodeRow.storeRegs (x : Reg) : OpcodeRow.Statement (.storeRegs x) :=
  ⟨0xF0FF, 0xF055, by simp [Instr.pattern, opcodeMap], rowX 0xF 0x55 (by decide) (by decide) x⟩
theorem OpcodeRow.loadRegs (x : Reg) : OpcodeRow.Statement (.loadRegs x) :=
  ⟨0xF0FF, 0xF065, by simp [Instr.pattern, opcodeMap], rowX 0xF 0x65 (by decide) (by decide) x⟩

end Sys2Proof.Laws
end

