-- ==== Sys2Proof/Tests/Slice0.lean ====
section
/-! SUPPORT. The model's own tests. Every expected value is a vector of 95_test_vectors.md (or a rule's own example), none is
the model's answer; then one witness per statement that has hypotheses. -/

namespace Sys2Proof.Tests

open Sys2Proof.Machine

/-- What a check says of the next state; false where a step stops. -/
def after (r : Result) (p : State → Bool) : Bool :=
  match r with
  | .next t => p t
  | .fault _ => false
  | .refused _ => false

/-- Reset, with one opcode placed at `pc` and some registers set. -/
def placed (w : Nat) (regs : List (Reg × Byte)) : State :=
  regs.foldl (fun s rb => setReg s rb.1 rb.2) (State.reset.withFetchWord 16 w)

/-- A check of one step of `placed`. -/
def steps (w : Nat) (regs : List (Reg × Byte)) (p : State → Bool) : Bool := after (step (placed w regs)) p

/-- The pixels of row `y` that are on. -/
def lit (s : State) (y : Nat) : List Nat := (List.range 64).filter fun x => pixelAt s.fb x y

/-- A halted core. -/
def dead : State := raiseFault .fetchOutOfBounds 0xFFF State.reset

/-! ## Well-formedness refuses (60_exceptions.md R182, 70_reset_and_hazards.md R201, 30_encoding.md R72) -/

theorem test_key_16_refused : keyCodeOk 16 = false := by decide
theorem test_key_minus_1_refused : keyCodeOk (-1) = false := by decide
theorem test_image_3585_refused : imageFits (List.replicate 3585 0xAA) = false := by
  rw [imageFits, List.length_replicate]; decide
theorem test_register_16_does_not_fit : fitsField 16 4 = false := by decide
theorem test_immediate_4096_does_not_fit : fitsField 4096 12 = false := by decide

/-! ## Decoding: each constructor's opcode written out from 30_encoding.md R74 -/

theorem test_decode_cls : decodeWord 0b0000000011100000 = .instr .cls := by decide
theorem test_decode_ret : decodeWord 0b0000000011101110 = .instr .ret := by decide
theorem test_decode_jp : decodeWord 0b0001001000110100 = .instr (.jp 0x234) := by decide
theorem test_decode_call : decodeWord 0b0010001100000000 = .instr (.call 0x300) := by decide
theorem test_decode_seImm : decodeWord 0b0011110001111111 = .instr (.seImm 0xC 0x7F) := by decide
theorem test_decode_sneImm : decodeWord 0b0100101001000010 = .instr (.sneImm 0xA 0x42) := by decide
theorem test_decode_seReg : decodeWord 0b0101000100100000 = .instr (.seReg 1 2) := by decide
theorem test_decode_ldImm : decodeWord 0b0110000000001010 = .instr (.ldImm 0 0x0A) := by decide
theorem test_decode_addImm : decodeWord 0b0111001100000101 = .instr (.addImm 3 5) := by decide
theorem test_decode_ldReg : decodeWord 0b1000000100100000 = .instr (.ldReg 1 2) := by decide
theorem test_decode_orReg : decodeWord 0b1000000100100001 = .instr (.orReg 1 2) := by decide
theorem test_decode_andReg : decodeWord 0b1000000100100010 = .instr (.andReg 1 2) := by decide
theorem test_decode_xorReg : decodeWord 0b1000000100100011 = .instr (.xorReg 1 2) := by decide
theorem test_decode_addReg : decodeWord 0b1000101010110100 = .instr (.addReg 0xA 0xB) := by decide
theorem test_decode_subReg : decodeWord 0b1000000100100101 = .instr (.subReg 1 2) := by decide
theorem test_decode_shr : decodeWord 0b1000001111110110 = .instr (.shr 3 0xF) := by decide
theorem test_decode_subnReg : decodeWord 0b1000000100100111 = .instr (.subnReg 1 2) := by decide
theorem test_decode_shl : decodeWord 0b1000001100001110 = .instr (.shl 3 0) := by decide
theorem test_decode_sneReg : decodeWord 0b1001000100100000 = .instr (.sneReg 1 2) := by decide
theorem test_decode_ldI : decodeWord 0b1010001011110000 = .instr (.ldI 0x2F0) := by decide
theorem test_decode_jpV0 : decodeWord 0b1011111111111111 = .instr (.jpV0 0xFFF) := by decide
theorem test_decode_rnd : decodeWord 0b1100000100001111 = .instr (.rnd 1 0x0F) := by decide
theorem test_decode_drw : decodeWord 0b1101000100101111 = .instr (.drw 1 2 0xF) := by decide
theorem test_decode_skp : decodeWord 0b1110001110011110 = .instr (.skp 3) := by decide
theorem test_decode_sknp : decodeWord 0b1110001110100001 = .instr (.sknp 3) := by decide
theorem test_decode_ldFromDt : decodeWord 0b1111010000000111 = .instr (.ldFromDt 4) := by decide
theorem test_decode_waitKey : decodeWord 0b1111000100001010 = .instr (.waitKey 1) := by decide
theorem test_decode_ldDt : decodeWord 0b1111010000010101 = .instr (.ldDt 4) := by decide
theorem test_decode_ldSt : decodeWord 0b1111010000011000 = .instr (.ldSt 4) := by decide
theorem test_decode_addI : decodeWord 0b1111001100011110 = .instr (.addI 3) := by decide
theorem test_decode_ldFont : decodeWord 0b1111000000101001 = .instr (.ldFont 0) := by decide
theorem test_decode_bcd : decodeWord 0b1111001000110011 = .instr (.bcd 2) := by decide
theorem test_decode_storeRegs : decodeWord 0b1111001001010101 = .instr (.storeRegs 2) := by decide
theorem test_decode_loadRegs : decodeWord 0b1111000101100101 = .instr (.loadRegs 1) := by decide

/-- V1: the unknown opcodes of families 0, 5, 8, E and F. -/
theorem test_decode_unknown : [0x01E0, 0x5AB1, 0x8128, 0xE19F, 0xF100, 0x0000].map decodeWord =
    [0x01E0, 0x5AB1, 0x8128, 0xE19F, 0xF100, 0x0000].map .unknown := by decide

/-- The opcode map has the table's 34 rows (30_encoding.md R74). -/
theorem test_map_rows : opcodeMap.length = 34 := by decide

/-! ## Control transfer (V2, S9) -/

theorem test_jp : steps 0x1228 [] (fun t => t.pc == 0x228) = true := by decide
theorem test_call : steps 0x2300 [] (fun t => t.pc == 0x300 && t.sp == 1 && t.stack[0] == 0x202) = true := by decide
theorem test_call_full : after (exec (.call 0x300) { State.reset with sp := 16 })
    (fun t => t.pc == 0x300 && t.sp == 16 && t.stack[15] == 0) = true := by decide
theorem test_ret : after (exec .ret (push State.reset 0x204))
    (fun t => t.pc == 0x204 && t.sp == 0 && t.stack[0] == 0x204) = true := by decide
theorem test_ret_empty : steps 0x00EE [] (fun t => t.pc == 0 && t.sp == 0 && !t.halted) = true := by decide
theorem test_jpV0_largest : steps 0xBFFF [(0, 0xFF)] (fun t => t.pc == 0x10FE && !t.halted) = true := by decide
theorem test_jpV0_ignores_x : steps 0xB300 [(0, 4), (3, 0x50)] (fun t => t.pc == 0x304) = true := by decide

/-! ## Skips (V3) -/

theorem test_seImm_taken : steps 0x3A42 [(0xA, 0x42)] (fun t => t.pc == 0x204) = true := by decide
theorem test_seImm_not : steps 0x3A42 [(0xA, 0x43)] (fun t => t.pc == 0x202) = true := by decide
theorem test_sneImm_not : steps 0x4A42 [(0xA, 0x42)] (fun t => t.pc == 0x202) = true := by decide
theorem test_sneImm_taken : steps 0x4A42 [(0xA, 0x43)] (fun t => t.pc == 0x204) = true := by decide
theorem test_seReg : steps 0x5120 [(1, 7), (2, 7)] (fun t => t.pc == 0x204) = true := by decide
theorem test_seReg_not : steps 0x5120 [(1, 7), (2, 8)] (fun t => t.pc == 0x202) = true := by decide
theorem test_sneReg_not : steps 0x9120 [(1, 7), (2, 7)] (fun t => t.pc == 0x202) = true := by decide
theorem test_sneReg : steps 0x9120 [(1, 7), (2, 8)] (fun t => t.pc == 0x204) = true := by decide

/-! ## Arithmetic, logic, shifts (V4, S2, S3) -/

theorem test_ldImm : steps 0x600A [] (fun t => getReg t 0 == 0x0A && t.pc == 0x202) = true := by decide
theorem test_addImm_wraps : steps 0x7305 [(3, 0xFE), (15, 0x5A)] (fun t => getReg t 3 == 3 && getReg t 15 == 0x5A) = true := by
  decide
theorem test_addImm_vf : steps 0x7F01 [(15, 0xFF)] (fun t => getReg t 15 == 0) = true := by decide
theorem test_ldReg : steps 0x8120 [(2, 0x7B)] (fun t => getReg t 1 == 0x7B) = true := by decide
theorem test_orReg : steps 0x8121 [(1, 0xF0), (2, 0x0F), (15, 7)] (fun t => getReg t 1 == 0xFF && getReg t 15 == 7) = true := by
  decide
theorem test_andReg : steps 0x8122 [(1, 0xF0), (2, 0x3C)] (fun t => getReg t 1 == 0x30) = true := by decide
theorem test_xorReg : steps 0x8123 [(1, 0xF0), (2, 0x3C)] (fun t => getReg t 1 == 0xCC) = true := by decide
theorem test_addReg_255 : steps 0x8014 [(0, 0x7F), (1, 0x80)] (fun t => getReg t 0 == 0xFF && getReg t 15 == 0) = true := by
  decide
theorem test_addReg_256 : steps 0x8014 [(0, 0xFF), (1, 0x01)] (fun t => getReg t 0 == 0 && getReg t 15 == 1) = true := by decide
theorem test_addReg_x_is_vf : steps 0x8F14 [(15, 0xF0), (1, 0x20)] (fun t => getReg t 15 == 0x10) = true := by decide
theorem test_subReg_borrow : steps 0x8015 [(0, 5), (1, 0x0A)] (fun t => getReg t 0 == 0xFB && getReg t 15 == 0) = true := by decide
theorem test_subReg_y_is_vf : steps 0x81F5 [(1, 0x10), (15, 5)] (fun t => getReg t 1 == 0x0B && getReg t 15 == 1) = true := by
  decide
theorem test_subReg_equal : steps 0x8015 [(0, 0x33), (1, 0x33)] (fun t => getReg t 0 == 0 && getReg t 15 == 1) = true := by decide
theorem test_subnReg : steps 0x8017 [(0, 0x0A), (1, 5)] (fun t => getReg t 0 == 0xFB && getReg t 15 == 0) = true := by decide
theorem test_subnReg_y_is_vf : steps 0x81F7 [(1, 0x10), (15, 0x20)] (fun t => getReg t 1 == 0x10 && getReg t 15 == 1) = true := by
  decide
theorem test_shr_ignores_y : steps 0x83F6 [(3, 5), (15, 0x77)] (fun t => getReg t 3 == 2 && getReg t 15 == 1) = true := by decide
theorem test_shr_x_is_vf : steps 0x8F16 [(15, 3)] (fun t => getReg t 15 == 1) = true := by decide
theorem test_shl : steps 0x830E [(3, 0x81)] (fun t => getReg t 3 == 2 && getReg t 15 == 1) = true := by decide
theorem test_shl_x_is_vf : steps 0x8F1E [(15, 0xC1)] (fun t => getReg t 15 == 0x82) = true := by decide
theorem test_rnd : after (stepWith 0xA7 (placed 0xC10F [])) (fun t => getReg t 1 == 7 && t.pc == 0x202) = true := by decide
theorem test_rnd_runs : steps 0xC100 [] (fun t => t.pc == 0x202) = true := by decide

/-! ## Index and memory (V5, V9) -/

theorem test_ldI : steps 0xA2F0 [] (fun t => t.i == 0x2F0) = true := by decide
theorem test_addI_wraps : after (exec (.addI 3) (setI (setReg State.reset 3 1) 0xFFF))
    (fun t => t.i == 0 && getReg t 15 == 1) = true := by decide
theorem test_addI_x_is_vf : after (exec (.addI 15) (setI (setReg State.reset 15 5) 0xFFE))
    (fun t => t.i == 3 && getReg t 15 == 1) = true := by decide
theorem test_ldFont : steps 0xF029 [(0, 0x0A)] (fun t => t.i == 0x082) = true := by decide
theorem test_ldFont_255 : steps 0xF029 [(0, 0xFF)] (fun t => t.i == 0x54B) = true := by decide
theorem test_bcd : after (exec (.bcd 2) (setI (setReg State.reset 2 0x9C) 0x300))
    (fun t => loadBytes t.mem 0x300 3 == [1, 5, 6] && t.i == 0x300) = true := by decide
theorem test_bcd_edge : after (exec (.bcd 0) (setI (setReg State.reset 0 0x7B) 0xFFE))
    (fun t => t.halted && t.faultCause == .dataOutOfBounds && t.faultInfo == 0x1000 && t.faultPc == 0x200 && t.pc == 0x200 &&
      t.mem == []) = true := by decide
theorem test_storeRegs : after (exec (.storeRegs 2) (setI (setReg (setReg (setReg (setReg State.reset 0 0x11) 1 0x22) 2 0x33) 3 0x44) 0x400))
    (fun t => loadBytes t.mem 0x400 4 == [0x11, 0x22, 0x33, 0] && t.i == 0x400) = true := by decide
theorem test_storeRegs_edge : after (exec (.storeRegs 15) (setI State.reset 0xFF1))
    (fun t => t.faultInfo == 0x1000 && t.pc == 0x200) = true := by decide
theorem test_loadRegs_font : after (exec (.loadRegs 15) (setI State.reset 0x050))
    (fun t => regList t 15 == [0xF0, 0x90, 0x90, 0x90, 0xF0, 0x20, 0x60, 0x20, 0x20, 0x70, 0xF0, 0x10, 0xF0, 0x80, 0xF0, 0xF0]) =
    true := by decide
theorem test_loadRegs_edge : after (exec (.loadRegs 4) (setI (setReg State.reset 0 0x77) 0xFFC))
    (fun t => t.halted && t.faultInfo == 0x1000 && getReg t 0 == 0x77) = true := by decide

/-! ## Display (V6, S5) -/

theorem test_cls : after (exec .cls { State.reset with fb := togglePixel clearFrame 5 5 })
    (fun t => lit t 5 == [] && t.pc == 0x202) = true := by decide
theorem test_drw_glyph_row : after (exec (.drw 0 1 1) (setI State.reset 0x050))
    (fun t => lit t 0 == [0, 1, 2, 3] && getReg t 15 == 0) = true := by decide
theorem test_drw_wraps_and_collides : after (exec (.drw 0 1 1)
      { setI (setReg State.reset 0 0x3F) 0x300 with mem := [(0x300, 0xC0)], fb := togglePixel clearFrame 0 0 })
    (fun t => lit t 0 == [63] && getReg t 15 == 1) = true := by decide
theorem test_drw_height_0 : after (exec (.drw 0 1 0) (setI (setReg State.reset 15 1) 0xFFF))
    (fun t => lit t 0 == [] && getReg t 15 == 0 && !t.halted) = true := by decide
theorem test_drw_edge : after (exec (.drw 0 0 2) (setI (setReg State.reset 15 1) 0xFFF))
    (fun t => t.faultCause == .dataOutOfBounds && t.faultInfo == 0x1000 && getReg t 15 == 1) = true := by decide
theorem test_drw_x_is_vf : after (exec (.drw 15 0 1) { setI (setReg State.reset 15 3) 0x300 with mem := [(0x300, 0x80)] })
    (fun t => lit t 0 == [3] && getReg t 15 == 0) = true := by decide

/-! ## Keys, timers and events (V7, V8, S8) -/

theorem test_skp : after (exec (.skp 3) (setKey 5 true (setReg State.reset 3 5))) (fun t => t.pc == 0x204) = true := by decide
theorem test_skp_no_such_key : after (exec (.skp 3) (setReg { State.reset with key := Vector.replicate 16 true } 3 0x15))
    (fun t => t.pc == 0x202) = true := by decide
theorem test_sknp_no_such_key : after (exec (.sknp 3) (setReg { State.reset with key := Vector.replicate 16 true } 3 0x20))
    (fun t => t.pc == 0x204) = true := by decide
theorem test_sknp_down : after (exec (.sknp 3) (setKey 5 true (setReg State.reset 3 5))) (fun t => t.pc == 0x202) = true := by
  decide
theorem test_waitKey_none : steps 0xF10A [(1, 0x77)] (fun t => t.pc == 0x200 && getReg t 1 == 0x77) = true := by decide
theorem test_waitKey_two : after (exec (.waitKey 1) (setKey 9 true (setKey 7 true State.reset)))
    (fun t => t.pc == 0x202 && getReg t 1 == 7) = true := by decide
theorem test_ldFromDt : after (exec (.ldFromDt 4) { State.reset with dt := 0x2A })
    (fun t => getReg t 4 == 0x2A && t.dt == 0x2A) = true := by decide
theorem test_ldDt : steps 0xF415 [(4, 0x3C)] (fun t => t.dt == 0x3C && t.st == 0) = true := by decide
theorem test_ldSt : steps 0xF418 [(4, 2)] (fun t => t.st == 2 && soundOn t && t.dt == 0) = true := by decide
theorem test_tick : (tick { State.reset with dt := 0xFF, st := 0 }).dt = 0xFE ∧
    (tick { State.reset with dt := 0xFF, st := 0 }).st = 0 := by decide
theorem test_key_ignored : setKey 16 true State.reset = State.reset ∧ setKey (-1) true State.reset = State.reset ∧
    eventReport (.key 16 true) State.reset = some .keyIgnored := by decide
theorem test_load : loadBytes (loadImage [0xAA, 0xBB] State.reset).mem 0x1FF 4 = [0, 0xAA, 0xBB, 0] := by decide
theorem test_load_reset_value_lists_nothing : (loadImage [0, 0] State.reset).mem = [] := by decide
theorem test_reset_font : loadBytes State.reset.mem 0x04F 7 = [0, 0xF0, 0x90, 0x90, 0x90, 0xF0, 0x20] ∧
    loadBytes State.reset.mem 0x09F 2 = [0x80, 0] := by decide

/-! ## The cycle (V1, V9, S9) -/

theorem test_fetch_big_endian : fetchWord (loadImage [0x12, 0x34] State.reset) = 0x1234 := by decide
theorem test_odd_pc : after (step { loadImage [0x12, 0x03, 0x00, 0x61, 0x07] State.reset with pc := 0x203 })
    (fun t => getReg t 1 == 7 && t.pc == 0x205) = true := by decide
theorem test_unknown : stepReport (placed 0x5AB1 []) = some (.unknownOpcode 0x5AB1 0x200) ∧
    steps 0x5AB1 [] (fun t => t.pc == 0x202 && !t.halted) = true := by decide
theorem test_fetch_fault : after (step (setPc State.reset 0xFFF))
    (fun t => t.halted && t.faultCause == .fetchOutOfBounds && t.faultInfo == 0xFFF && t.faultPc == 0xFFF && t.pc == 0xFFF) =
    true := by decide
theorem test_fetch_at_4094 : after (step (setPc State.reset 0xFFE)) (fun t => t.pc == 0x1000 && !t.halted) = true := by decide
theorem test_halted : after (step dead) (fun t => t == dead) = true ∧ tick dead = dead ∧ setKey 3 true dead = dead ∧
    loadImage [0xAA] dead = dead := by decide
theorem test_reset_leaves_halt : resetMachine dead = State.reset := by decide
theorem test_underflow_report : stepReport (placed 0x00EE []) = some .stackUnderflow := by decide
theorem test_overflow_report : stepReport { placed 0x2200 [] with sp := 16 } = some .stackOverflowDropped := by decide

/-! ## Witnesses: a concrete state and operands that meet the hypotheses of each statement that has some, at the ends of the
ranges of its clauses -/

theorem witness_EncodeOfDecodeIsTheOpcode : decodeWord 0xF3FF = .unknown 0xF3FF ∧ decodeWord 0xD12F = .instr (.drw 1 2 0xF) := by
  decide

theorem witness_OpcodeMapSelectsTheInstruction : ("8XYE", (0xF00F : Word), (0x800E : Word)) ∈ opcodeMap ∧
    (0x8FFE : Word) &&& 0xF00F = 0x800E := by decide

theorem witness_StepRunsTheDecodedInstruction : (placed 0x1228 []).halted = false ∧ (placed 0x1228 []).pc.toNat ≤ 4094 ∧
    ReadsAs ((loadByte (placed 0x1228 []).mem 0x200).toNat * 256 + (loadByte (placed 0x1228 []).mem 0x201).toNat)
      (.jp 0x228) := by decide

theorem witness_UnknownOpcodeIsReportedAndPassed : (setPc State.reset 0xFFE).halted = false ∧
    (setPc State.reset 0xFFE).pc.toNat ≤ 4094 ∧
    (0 : Word).toNat = (loadByte State.reset.mem 0xFFE).toNat * 256 + (loadByte State.reset.mem 0xFFF).toNat ∧
    decodeWord 0 = .unknown 0 := by decide

theorem witness_FetchOutsideMemoryTakesTheFault : (setPc State.reset 0xFFF).halted = false ∧
    4094 < (setPc State.reset 0xFFF).pc.toNat := by decide

theorem witness_DataOutsideMemoryTakesTheFault : 4095 < (setI State.reset 0xFFE).i.toNat + 2 ∧
    4095 < (setI State.reset 0xFF1).i.toNat + (15 : Reg).val ∧
    1 ≤ (2 : Imm4).toNat ∧ 4095 < (setI State.reset 0xFFF).i.toNat + (2 : Imm4).toNat - 1 := by decide

theorem witness_StepCompletesOrTakesOneFault : Good State.reset := rfl

theorem witness_HaltedCoreIgnoresEventsButReset : dead.halted = true ∧ Event.tick ≠ .reset := by decide

theorem witness_JumpToSelfIsQuiescent : (placed 0x1200 []).halted = false ∧
    (placed 0x1200 []).pc.toNat = (0x200 : Imm12).toNat ∧ (0x200 : Imm12).toNat ≤ 4094 ∧
    ReadsAs ((loadByte (placed 0x1200 []).mem 0x200).toNat * 256 + (loadByte (placed 0x1200 []).mem 0x201).toNat)
      (.jp 0x200) := by decide

theorem witness_RetPopsTheReturnAddress : State.reset.sp = 0 ∧
    ({ State.reset with sp := 16 } : State).sp.val = (15 : Fin 16).val + 1 := by decide

theorem witness_CallPushesTheReturnAddress : ({ State.reset with sp := 15 } : State).sp.val = (15 : Fin 16).val ∧
    (0 : Fin 16) ≠ 15 ∧ ({ State.reset with sp := 16 } : State).sp = 16 := by decide

theorem witness_PushedValuesPopInReverse : State.reset.sp.val + (List.replicate 16 (0x202 : Word)).length ≤ 16 ∧
    ({ State.reset with sp := 16 } : State).sp = 16 ∧ State.reset.sp = 0 := by decide

theorem witness_ReturnUndoesCall : ({ State.reset with sp := 15 } : State).sp.val < 16 := by decide

/-- The premise of the flag clauses of `8XY4`, `8XY5`, `8XY7` and the shifts. -/
theorem witness_FlagClauses : (14 : Reg) ≠ vf := by decide

theorem witness_FontPointerFindsTheGlyph : (setReg State.reset 0 15).mem = State.reset.mem ∧
    (getReg (setReg State.reset 0 15) 0).toNat < 16 := by decide

theorem witness_BcdStoresTheDecimalDigits : Memory.wf (setI State.reset 0xFFD).mem = true ∧
    (setI State.reset 0xFFD).i.toNat + 2 ≤ 4095 := by decide

/-- The premises of the `FX55` and `FX65` statements, the last byte at the last address. -/
theorem witness_StoreRegsStoresTheRun : Memory.wf (setI State.reset 0xFF0).mem = true ∧
    (setI State.reset 0xFF0).i.toNat + (15 : Reg).val ≤ 4095 ∧ (15 : Reg) ≤ 15 := by decide

theorem witness_LoadRegsLoadsTheRun : (setI State.reset 0xFF0).i.toNat + (15 : Reg).val ≤ 4095 ∧
    (setI State.reset 0xFFF).i.toNat + (0 : Reg).val ≤ 4095 ∧ (0 : Reg) < 15 := by decide

theorem witness_StoreThenLoadRestoresRegisters : Memory.wf (setI State.reset 0xFF0).mem = true ∧
    (setI State.reset 0xFF0).i.toNat + (15 : Reg).val ≤ 4095 := by decide

theorem witness_StoredBytesAreTheNextOpcode :
    let s := setI (setReg (setReg State.reset 0 0x12) 1 0x08) 0x202
    Memory.wf s.mem = true ∧ s.halted = false ∧ s.pc.toNat ≤ 4092 ∧ s.i.toNat + (1 : Reg).val ≤ 4095 ∧
      s.i.toNat + (0 : Reg).val = s.pc.toNat + 2 ∧ (0 : Reg) < 1 ∧
      ReadsAs ((getReg s 0).toNat * 256 + (getReg s (0 + 1)).toNat) (.jp 0x208) := by decide

theorem witness_SpriteTogglesItsPixels : (List.replicate 15 (0xFF : Byte)).length ≤ 15 := by decide

theorem witness_SpriteIsItsOwnInverse : ([] : List Byte).length ≤ 15 := by decide

theorem witness_DrwDrawsAndFlagsCollision : ((0 : Imm4) = 0 ∨ (setI State.reset 0xFFF).i.toNat + (0 : Imm4).toNat ≤ 4096) ∧
    (setI State.reset 0xFF1).i.toNat + (15 : Imm4).toNat ≤ 4096 := by decide

/-- Both collision clauses of `DXYN` are met: over a lit pixel and over a clear display. -/
theorem witness_CollisionClauses :
    Collides (SpriteCovers (fun _ => 0x80) 1 0 0) (togglePixel clearFrame 0 0) ∧
      ¬ Collides (SpriteCovers (fun _ => 0x80) 1 0 0) clearFrame :=
  ⟨⟨0, 0, by decide, by decide, ⟨0, 0, by decide, by decide, by decide, by decide, by decide⟩, by decide⟩,
    fun ⟨x, y, _, _, _, h⟩ => by simp [pixelAt, clearFrame] at h⟩

theorem witness_KeySkipsTestTheKey : (getReg (setReg State.reset 3 15) 3).toNat = (15 : Fin 16).val ∧
    16 ≤ (getReg (setReg State.reset 3 16) 3).toNat ∧ ((-1 : Int) < 0 ∨ 15 < (-1 : Int)) ∧
    ((16 : Int) < 0 ∨ 15 < (16 : Int)) := by decide

/-- `is_key_pressed` at the ends of its range and outside it (10_state.md R30). -/
theorem test_is_key_pressed : isKeyPressed (setKey 0 true (setKey 15 true State.reset)) 0 = true ∧
    isKeyPressed (setKey 0 true (setKey 15 true State.reset)) 15 = true ∧
    isKeyPressed (setKey 0 true (setKey 15 true State.reset)) 16 = false ∧
    isKeyPressed (setKey 0 true (setKey 15 true State.reset)) (-1) = false := by decide

theorem witness_WaitKeyRetriesOrTakesTheLowest : (∀ k : Fin 16, State.reset.key[k.val] = false) ∧
    (setKey 15 true State.reset).key[15] = true ∧
    ∀ j : Fin 16, j < 15 → (setKey 15 true State.reset).key[j.val] = false := by decide

theorem witness_LoadCopiesTheImage : State.reset.halted = false ∧ Memory.wf State.reset.mem = true := by decide

theorem witness_TickDecrementsTheTimers : ({ State.reset with dt := 1, st := 0xFF } : State).halted = false := by decide

theorem witness_KeyEventWritesOneFlag : State.reset.halted = false ∧ (15 : Int) = (15 : Fin 16).val ∧
    (15 : Int) ≠ (0 : Fin 16).val ∧ ((16 : Int) < 0 ∨ 15 < (16 : Int)) ∧ ((-1 : Int) < 0 ∨ 15 < (-1 : Int)) := by decide

theorem witness_SoundStopsWhenTheTimerReachesZero : ({ State.reset with st := 1 } : State).halted = false := by decide

theorem witness_StepIsTheStepEventAtTheFreeByte (x : Reg) (nn : Byte) :
    ¬ ReadsAs ((loadByte State.reset.mem State.reset.pc.toNat).toNat * 256 +
      (loadByte State.reset.mem (State.reset.pc.toNat + 1)).toNat) (.rnd x nn) := by
  intro h
  have e : decodeWord (BitVec.ofNat 16 ((loadByte State.reset.mem State.reset.pc.toNat).toNat * 256 +
    (loadByte State.reset.mem (State.reset.pc.toNat + 1)).toNat)) = .unknown 0 := by decide
  rw [ReadsAs, e] at h
  cases h

theorem witness_StepKeepsTheInvariant : Legal State.reset ∧ ∃ t, step State.reset = .next t :=
  ⟨⟨by decide, by decide, by decide, by decide, by decide⟩, _, rfl⟩

theorem witness_EveryEventKeepsTheInvariant : Legal dead ∧ ∃ t, applyEvent .reset dead = .next t :=
  ⟨⟨by decide, by decide, by decide, by decide, by decide⟩, _, rfl⟩

theorem witness_ReachableStatesStayInRange : Reachable (tick State.reset) ∧ ∃ s, Reachable s ∧ s.halted = true := by
  refine ⟨.event .tick .reset rfl, ?_⟩
  have h1 : Reachable (loadImage [0x1F, 0xFF] State.reset) := .event (.load [0x1F, 0xFF]) .reset rfl
  have h2 : applyEvent (.step 0) (loadImage [0x1F, 0xFF] State.reset) =
      .next (setPc (loadImage [0x1F, 0xFF] State.reset) 0xFFF) := rfl
  have h3 : applyEvent (.step 0) (setPc (loadImage [0x1F, 0xFF] State.reset) 0xFFF) =
      .next (raiseFault .fetchOutOfBounds 0xFFF (setPc (loadImage [0x1F, 0xFF] State.reset) 0xFFF)) := rfl
  exact ⟨_, .event _ (.event _ h1 h2) h3, rfl⟩

theorem witness_OnlyNamedInstructionsWriteAPart : (∃ t, exec (.storeRegs 3) State.reset = .next t) ∧
    (Instr.storeRegs 3).pattern ∉ writersOf .regs := ⟨⟨_, rfl⟩, by decide⟩

/-- The premises of the `pc` clause, on a form that could take a fault and does not. -/
theorem witness_PcClause : (setI State.reset 0xFF0).halted = false ∧
    (∃ t, exec (.storeRegs 15) (setI State.reset 0xFF0) = .next t ∧ t.halted = false) ∧
    (Instr.storeRegs 15).pattern ∉ pcWriters := ⟨rfl, ⟨_, rfl, by decide⟩, by decide⟩

theorem witness_OnlyFlagWritersTouchVf : (∃ t, exec (.loadRegs 14) State.reset = .next t) ∧
    (Instr.loadRegs 14).pattern ∉ flagWriters ∧ destination (.loadRegs 14) ≠ some vf := ⟨⟨_, rfl⟩, by decide, by decide⟩

theorem witness_FlagIsZeroOrOne : State.reset.halted = false ∧
    (∃ t, exec (.drw 15 15 0) State.reset = .next t ∧ t.halted = false) ∧ (Instr.drw 15 15 0).pattern ∈ flagWriters ∧
    destination (.drw 15 15 0) ≠ some vf := ⟨rfl, ⟨_, rfl, rfl⟩, by decide, by decide⟩

theorem witness_NoInstructionReadsTheSoundTimer : (Instr.ldDt 3).pattern ≠ "FX18" ∧
    ∃ t, exec (.ldDt 3) State.reset = .next t := ⟨by decide, _, rfl⟩

theorem witness_OnlyFourInstructionsReachMemory : (Instr.call 0x300).pattern ∉ ["DXYN", "FX33", "FX55", "FX65"] ∧
    ∃ t, exec (.call 0x300) State.reset = .next t := ⟨by decide, _, rfl⟩

end Sys2Proof.Tests
end

section
/-! The rules a jump to an immediate rests on: the `NNN` format read back, the frame of a write of `pc`, the meaning of
`1NNN`. After them, `1NNN` itself (41_control_transfer.md R101). -/

namespace Sys2Proof

@[simp] theorem fieldFamily_encodeNNN (family : Nat) (nnn : Imm12) (h : family < 16) :
    fieldFamily (encodeNNN family nnn) = family := by
  have := nnn.isLt
  rw [fieldFamily, toNat_encodeNNN family nnn h]
  omega

@[simp] theorem fieldNNN_encodeNNN (family : Nat) (nnn : Imm12) (h : family < 16) :
    fieldNNN (encodeNNN family nnn) = nnn := by
  have := nnn.isLt
  apply BitVec.eq_of_toNat_eq
  rw [fieldNNN, BitVec.toNat_ofNat, toNat_encodeNNN family nnn h]
  omega

theorem decodeWord_encode_jp (nnn : Imm12) : decodeWord (encode (.jp nnn)) = .instr (.jp nnn) := by
  simp [encode, decodeWord]

end Sys2Proof

namespace Sys2Proof.Machine

/-- A write of `pc` touches no part of the state. -/
theorem keepsAllBut_setPc (s : State) (w : Word) : KeepsAllBut [] s (setPc s w) := by
  intro p _
  cases p <;> simp [Unchanged, getReg]

theorem exec_jp (nnn : Imm12) (s : State) : exec (.jp nnn) s = .next (setPc s (zext16 nnn)) := rfl

/-- `0x1000 + NNN` is the encoding of `1NNN` (30_encoding.md R71), so it reads as that jump. -/
theorem readsAs_jp (nnn : Imm12) : ReadsAs (0x1000 + nnn.toNat) (.jp nnn) := decodeWord_encode_jp nnn

/-- Settles O14: the jump is one write of `pc`, whose value is the zero-extended immediate. -/
theorem jpSetsPcToTheImmediate : Obligations.JpSetsPcToTheImmediate := by
  intro nnn
  refine ⟨readsAs_jp nnn, fun s => ⟨setPc s (zext16 nnn), exec_jp nnn s, ?_, keepsAllBut_setPc s _⟩⟩
  rw [setPc_pc, toNat_zext16]

end Sys2Proof.Machine
end

section
/-! The rules the register skips rest on: the `XNN` and `XYN` formats read back, and a conditional skip as one write of
`pc`. After them, the four skips that compare registers (42_skips.md R110 to R113). -/

namespace Sys2Proof

@[simp] theorem fieldFamily_encodeXNN (family : Nat) (x : Reg) (nn : Byte) (h : family < 16) :
    fieldFamily (encodeXNN family x nn) = family := by
  have := x.isLt; have := nn.isLt
  rw [fieldFamily, toNat_encodeXNN family x nn h]
  omega

@[simp] theorem fieldX_encodeXNN (family : Nat) (x : Reg) (nn : Byte) (h : family < 16) :
    fieldX (encodeXNN family x nn) = x := by
  have := x.isLt; have := nn.isLt
  apply Fin.ext
  simp only [fieldX, toNat_encodeXNN family x nn h]
  omega

@[simp] theorem fieldNN_encodeXNN (family : Nat) (x : Reg) (nn : Byte) (h : family < 16) :
    fieldNN (encodeXNN family x nn) = nn := by
  have := nn.isLt
  apply BitVec.eq_of_toNat_eq
  rw [fieldNN, BitVec.toNat_ofNat, toNat_encodeXNN family x nn h]
  omega

@[simp] theorem fieldFamily_encodeXYN (family : Nat) (x y : Reg) (n : Nat) (h : family < 16) (hn : n < 16) :
    fieldFamily (encodeXYN family x y n) = family := by
  have := x.isLt; have := y.isLt
  rw [fieldFamily, toNat_encodeXYN family x y n h hn]
  omega

@[simp] theorem fieldX_encodeXYN (family : Nat) (x y : Reg) (n : Nat) (h : family < 16) (hn : n < 16) :
    fieldX (encodeXYN family x y n) = x := by
  have := x.isLt; have := y.isLt
  apply Fin.ext
  simp only [fieldX, toNat_encodeXYN family x y n h hn]
  omega

@[simp] theorem fieldY_encodeXYN (family : Nat) (x y : Reg) (n : Nat) (h : family < 16) (hn : n < 16) :
    fieldY (encodeXYN family x y n) = y := by
  have := y.isLt
  apply Fin.ext
  simp only [fieldY, toNat_encodeXYN family x y n h hn]
  omega

/-- The low digit the decoder tests in the families 5, 8 and 9 (30_encoding.md R73). -/
@[simp] theorem lowDigit_encodeXYN (family : Nat) (x y : Reg) (n : Nat) (h : family < 16) (hn : n < 16) :
    (encodeXYN family x y n).toNat % 0x10 = n := by
  rw [toNat_encodeXYN family x y n h hn]
  omega

theorem decodeWord_encode_seImm (x : Reg) (nn : Byte) : decodeWord (encode (.seImm x nn)) = .instr (.seImm x nn) := by
  simp [encode, decodeWord]

theorem decodeWord_encode_sneImm (x : Reg) (nn : Byte) :
    decodeWord (encode (.sneImm x nn)) = .instr (.sneImm x nn) := by
  simp [encode, decodeWord]

theorem decodeWord_encode_seReg (x y : Reg) : decodeWord (encode (.seReg x y)) = .instr (.seReg x y) := by
  simp [encode, decodeWord]

theorem decodeWord_encode_sneReg (x y : Reg) : decodeWord (encode (.sneReg x y)) = .instr (.sneReg x y) := by
  simp [encode, decodeWord]

end Sys2Proof

namespace Sys2Proof.Machine

/-- The advance and a skip after it are one write of `pc` (42_skips.md, common facts). -/
theorem skipIf_advance (c : Bool) (s : State) :
    skipIf c (advance s) = setPc s (if c then s.pc + 4 else s.pc + 2) := by
  cases c with
  | false => rfl
  | true =>
    have h : s.pc + 2 + 2 = s.pc + 4 := BitVec.add_assoc _ _ _
    exact congrArg (setPc s) h

/-- The skip on equal bytes, of `3XNN` and `5XY0`. -/
theorem skipIf_beq_advance (a b : Byte) (s : State) :
    skipIf (a == b) (advance s) = setPc s (if a = b then s.pc + 4 else s.pc + 2) := by
  simp [skipIf_advance]

/-- The skip on different bytes, of `4XNN` and `9XY0`. -/
theorem skipIf_bne_advance (a b : Byte) (s : State) :
    skipIf (a != b) (advance s) = setPc s (if a = b then s.pc + 2 else s.pc + 4) := by
  simp [skipIf_advance]

theorem exec_seImm (x : Reg) (nn : Byte) (s : State) :
    exec (.seImm x nn) s = .next (setPc s (if getReg s x = nn then s.pc + 4 else s.pc + 2)) :=
  congrArg Host.Outcome.next (skipIf_beq_advance (getReg s x) nn s)

theorem exec_sneImm (x : Reg) (nn : Byte) (s : State) :
    exec (.sneImm x nn) s = .next (setPc s (if getReg s x = nn then s.pc + 2 else s.pc + 4)) :=
  congrArg Host.Outcome.next (skipIf_bne_advance (getReg s x) nn s)

theorem exec_seReg (x y : Reg) (s : State) :
    exec (.seReg x y) s = .next (setPc s (if getReg s x = getReg s y then s.pc + 4 else s.pc + 2)) :=
  congrArg Host.Outcome.next (skipIf_beq_advance (getReg s x) (getReg s y) s)

theorem exec_sneReg (x y : Reg) (s : State) :
    exec (.sneReg x y) s = .next (setPc s (if getReg s x = getReg s y then s.pc + 2 else s.pc + 4)) :=
  congrArg Host.Outcome.next (skipIf_bne_advance (getReg s x) (getReg s y) s)

/-- Settles O19: each skip is one write of `pc`, whose value depends on whether V[X] is the immediate. -/
theorem immediateSkipsCompare : Obligations.ImmediateSkipsCompare := by
  intro x nn
  refine ⟨decodeWord_encode_seImm x nn, decodeWord_encode_sneImm x nn, fun s => ⟨?_, ?_⟩⟩
  · exact ⟨_, exec_seImm x nn s, setPc_pc s _, keepsAllBut_setPc s _⟩
  · exact ⟨_, exec_sneImm x nn s, setPc_pc s _, keepsAllBut_setPc s _⟩

/-- Settles O20: each skip is one write of `pc`, whose value depends on whether the two registers hold the same byte. -/
theorem registerSkipsCompare : Obligations.RegisterSkipsCompare := by
  intro x y
  refine ⟨decodeWord_encode_seReg x y, decodeWord_encode_sneReg x y, fun s => ⟨?_, ?_⟩⟩
  · exact ⟨_, exec_seReg x y s, setPc_pc s _, keepsAllBut_setPc s _⟩
  · exact ⟨_, exec_sneReg x y s, setPc_pc s _, keepsAllBut_setPc s _⟩

end Sys2Proof.Machine
end

section
/-! The rules the instructions with one result register rest on: their opcodes read back, the frame of a write of one
register, and each meaning as the advance with that write. After them, the load, the sum, the copy and the bit by bit
operations that set no flag (43_alu.md R121 to R126). -/

namespace Sys2Proof

theorem decodeWord_encode_ldImm (x : Reg) (nn : Byte) : decodeWord (encode (.ldImm x nn)) = .instr (.ldImm x nn) := by
  simp [encode, decodeWord]

theorem decodeWord_encode_addImm (x : Reg) (nn : Byte) :
    decodeWord (encode (.addImm x nn)) = .instr (.addImm x nn) := by
  simp [encode, decodeWord]

/-- An opcode `8XYn` reads as what family 8 makes of it (30_encoding.md R74). -/
@[simp] theorem decodeWord_encodeXYN_8 (x y : Reg) (n : Nat) (hn : n < 16) :
    decodeWord (encodeXYN 0x8 x y n) = decodeFamily8 (encodeXYN 0x8 x y n) := by
  simp [decodeWord, hn]

theorem decodeWord_encode_ldReg (x y : Reg) : decodeWord (encode (.ldReg x y)) = .instr (.ldReg x y) := by
  simp [encode, decodeFamily8]

theorem decodeWord_encode_orReg (x y : Reg) : decodeWord (encode (.orReg x y)) = .instr (.orReg x y) := by
  simp [encode, decodeFamily8]

theorem decodeWord_encode_andReg (x y : Reg) : decodeWord (encode (.andReg x y)) = .instr (.andReg x y) := by
  simp [encode, decodeFamily8]

theorem decodeWord_encode_xorReg (x y : Reg) : decodeWord (encode (.xorReg x y)) = .instr (.xorReg x y) := by
  simp [encode, decodeFamily8]

end Sys2Proof

namespace Sys2Proof.Machine

/-- The advance of `pc` touches no part of the state. -/
theorem keepsAllBut_advance (s : State) : KeepsAllBut [] s (advance s) := keepsAllBut_setPc s (s.pc + 2)

/-- A write of one register touches the register file alone. -/
theorem keepsAllBut_setReg (s : State) (x : Reg) (b : Byte) : KeepsAllBut [.regs] s (setReg s x b) := by
  intro p hp
  cases p with
  | regs => exact absurd (List.mem_singleton.2 rfl) hp
  | _ => simp [Unchanged]

/-- The advance and a write of one register after it touch the register file alone. -/
theorem keepsAllBut_setReg_advance (s : State) (x : Reg) (b : Byte) : KeepsAllBut [.regs] s (setReg (advance s) x b) :=
  (keepsAllBut_advance s).trans (keepsAllBut_setReg (advance s) x b)

/-- The advance and a write of one register after it leave every other register alone, VF too when it is another. -/
theorem regsKeptBut_setReg_advance (s : State) (x : Reg) (b : Byte) : RegsKeptBut [x] s (setReg (advance s) x b) :=
  fun _ hr => getReg_setReg_of_ne (advance s) b (List.ne_of_not_mem_cons hr)

theorem exec_ldImm (x : Reg) (nn : Byte) (s : State) : exec (.ldImm x nn) s = .next (setReg (advance s) x nn) := rfl

theorem exec_addImm (x : Reg) (nn : Byte) (s : State) :
    exec (.addImm x nn) s = .next (setReg (advance s) x (getReg s x + nn)) := rfl

theorem exec_ldReg (x y : Reg) (s : State) : exec (.ldReg x y) s = .next (setReg (advance s) x (getReg s y)) := rfl

theorem exec_orReg (x y : Reg) (s : State) :
    exec (.orReg x y) s = .next (setReg (advance s) x (getReg s x ||| getReg s y)) := rfl

theorem exec_andReg (x y : Reg) (s : State) :
    exec (.andReg x y) s = .next (setReg (advance s) x (getReg s x &&& getReg s y)) := rfl

theorem exec_xorReg (x y : Reg) (s : State) :
    exec (.xorReg x y) s = .next (setReg (advance s) x (getReg s x ^^^ getReg s y)) := rfl

/-- Settles O21: the meaning writes the immediate to V[X]. -/
theorem ldImmLoadsTheImmediate : Obligations.LdImmLoadsTheImmediate := by
  intro x nn
  refine ⟨decodeWord_encode_ldImm x nn, fun s => ?_⟩
  exact ⟨_, exec_ldImm x nn s, advance_pc s, getReg_setReg_self _ x nn, regsKeptBut_setReg_advance s x _,
    keepsAllBut_setReg_advance s x _⟩

/-- Settles O22: the byte written is the bit vector sum, which wraps at 256. -/
theorem addImmWrapsWithoutFlag : Obligations.AddImmWrapsWithoutFlag := by
  intro x nn
  refine ⟨decodeWord_encode_addImm x nn, fun s => ?_⟩
  refine ⟨_, exec_addImm x nn s, advance_pc s, ?_, regsKeptBut_setReg_advance s x _, keepsAllBut_setReg_advance s x _⟩
  rw [getReg_setReg_self, BitVec.toNat_add]

/-- Settles O23: the meaning writes V[Y], as it was before, to V[X]. -/
theorem ldRegCopiesTheRegister : Obligations.LdRegCopiesTheRegister := by
  intro x y
  refine ⟨decodeWord_encode_ldReg x y, fun s => ?_⟩
  exact ⟨_, exec_ldReg x y s, advance_pc s, getReg_setReg_self _ x _, regsKeptBut_setReg_advance s x _,
    keepsAllBut_setReg_advance s x _⟩

/-- Settles O24: the byte written is the bit vector OR, AND or XOR of the two registers, read bit by bit. -/
theorem logicIsBitByBitWithoutFlag : Obligations.LogicIsBitByBitWithoutFlag := by
  intro x y
  refine ⟨decodeWord_encode_orReg x y, decodeWord_encode_andReg x y, decodeWord_encode_xorReg x y,
    fun s => ⟨?_, ?_, ?_⟩⟩
  · refine ⟨_, exec_orReg x y s, advance_pc s, fun k _ => ?_, regsKeptBut_setReg_advance s x _,
      keepsAllBut_setReg_advance s x _⟩
    rw [getReg_setReg_self, BitVec.getLsbD_or]
  · refine ⟨_, exec_andReg x y s, advance_pc s, fun k _ => ?_, regsKeptBut_setReg_advance s x _,
      keepsAllBut_setReg_advance s x _⟩
    rw [getReg_setReg_self, BitVec.getLsbD_and]
  · refine ⟨_, exec_xorReg x y s, advance_pc s, fun k _ => ?_, regsKeptBut_setReg_advance s x _,
      keepsAllBut_setReg_advance s x _⟩
    rw [getReg_setReg_self, BitVec.getLsbD_xor]

end Sys2Proof.Machine
end

section
/-! The rules the two loads of `I` rest on: the `X` format read back, the frame of a write of `I`, and each meaning as the
advance with that write. After them, the load of an immediate and the font pointer (44_index_memory.md R140, R142). -/

namespace Sys2Proof

@[simp] theorem fieldFamily_encodeX (family : Nat) (x : Reg) (low : Nat) (h : family < 16) (hl : low < 256) :
    fieldFamily (encodeX family x low) = family := by
  have := x.isLt
  rw [fieldFamily, toNat_encodeX family x low h hl]
  omega

@[simp] theorem fieldX_encodeX (family : Nat) (x : Reg) (low : Nat) (h : family < 16) (hl : low < 256) :
    fieldX (encodeX family x low) = x := by
  have := x.isLt
  apply Fin.ext
  simp only [fieldX, toNat_encodeX family x low h hl]
  omega

/-- The low byte the decoder tests in the families E and F (30_encoding.md R73). -/
@[simp] theorem lowByte_encodeX (family : Nat) (x : Reg) (low : Nat) (h : family < 16) (hl : low < 256) :
    (encodeX family x low).toNat % 0x100 = low := by
  rw [toNat_encodeX family x low h hl]
  omega

/-- Format `X` with its fixed digits taken together, as in the opcode `0xF029 + X * 0x100`. -/
theorem encodeX_eq_ofNat (family : Nat) (x : Reg) (low : Nat) :
    encodeX family x low = BitVec.ofNat 16 (family * 0x1000 + low + x.val * 0x100) :=
  congrArg (BitVec.ofNat 16) (Nat.add_right_comm _ _ _)

/-- An opcode `FX` with a low byte reads as what family F makes of it (30_encoding.md R74). -/
@[simp] theorem decodeWord_encodeX_F (x : Reg) (low : Nat) (hl : low < 256) :
    decodeWord (encodeX 0xF x low) = decodeFamilyF (encodeX 0xF x low) := by
  simp [decodeWord, hl]

theorem decodeWord_encode_ldI (nnn : Imm12) : decodeWord (encode (.ldI nnn)) = .instr (.ldI nnn) := by
  simp [encode, decodeWord]

theorem decodeWord_encode_ldFont (x : Reg) : decodeWord (encode (.ldFont x)) = .instr (.ldFont x) := by
  simp [encode, decodeFamilyF]

end Sys2Proof

namespace Sys2Proof.Machine

/-- `0xF029 + X * 0x100` is the encoding of `FX29` (30_encoding.md R71), so it reads as that load. -/
theorem readsAs_ldFont (x : Reg) : ReadsAs (0xF029 + x.val * 0x100) (.ldFont x) :=
  (congrArg decodeWord (encodeX_eq_ofNat 0xF x 0x29)).symm.trans (decodeWord_encode_ldFont x)

/-- A write of `I` touches the index register alone. -/
theorem keepsAllBut_setI (s : State) (w : Word) : KeepsAllBut [.index] s (setI s w) := by
  intro p hp
  cases p with
  | index => exact absurd (List.mem_singleton.2 rfl) hp
  | _ => simp [Unchanged, getReg]

/-- The advance and a write of `I` after it touch the index register alone. -/
theorem keepsAllBut_setI_advance (s : State) (w : Word) : KeepsAllBut [.index] s (setI (advance s) w) :=
  (keepsAllBut_advance s).trans (keepsAllBut_setI (advance s) w)

theorem exec_ldI (nnn : Imm12) (s : State) : exec (.ldI nnn) s = .next (setI (advance s) (zext16 nnn)) := rfl

theorem exec_ldFont (x : Reg) (s : State) :
    exec (.ldFont x) s = .next (setI (advance s) (fontAddress (getReg s x))) := rfl

/-- Settles O30: the meaning writes the zero-extended immediate to `I`. -/
theorem ldIndexLoadsTheImmediate : Obligations.LdIndexLoadsTheImmediate := by
  intro nnn
  refine ⟨decodeWord_encode_ldI nnn, fun s => ?_⟩
  refine ⟨_, exec_ldI nnn s, advance_pc s, ?_, keepsAllBut_setI_advance s _⟩
  rw [setI_i, toNat_zext16]

/-- Settles O32: the address written is computed from the whole byte of V[X] and fits in 16 bits, so nothing is cut off. -/
theorem ldFontPointsAtTheGlyph : Obligations.LdFontPointsAtTheGlyph := by
  intro x
  refine ⟨readsAs_ldFont x, fun s => ?_⟩
  refine ⟨_, exec_ldFont x s, advance_pc s, ?_, keepsAllBut_setI_advance s _⟩
  rw [setI_i, toNat_fontAddress]

end Sys2Proof.Machine
end

section
/-! The rules the compositor rests on: which cells a sprite lists, that at most 32 rows list no cell twice, and what drawing a
list of distinct cells does to a pixel and to the collision. After them, the compositor itself and the clearing of the
display (45_display.md R150, R151). -/

namespace Sys2Proof.Machine

/-- The cells are pixels of the frame and no two of them are the same pixel. -/
structure DistinctCells (cells : List (Nat × Nat)) : Prop where
  inFrame : ∀ p ∈ cells, p.1 < 64 ∧ p.2 < 32
  nodup : cells.Nodup

theorem DistinctCells.head_inFrame {p : Nat × Nat} {ps : List (Nat × Nat)} (h : DistinctCells (p :: ps)) :
    p.1 < 64 ∧ p.2 < 32 :=
  h.inFrame p List.mem_cons_self

theorem DistinctCells.head_notMem {p : Nat × Nat} {ps : List (Nat × Nat)} (h : DistinctCells (p :: ps)) : p ∉ ps :=
  (List.nodup_cons.1 h.nodup).1

theorem DistinctCells.tail {p : Nat × Nat} {ps : List (Nat × Nat)} (h : DistinctCells (p :: ps)) : DistinctCells ps :=
  ⟨fun q hq => h.inFrame q (List.mem_cons_of_mem p hq), (List.nodup_cons.1 h.nodup).2⟩

/-! ## The cells of a sprite -/

theorem mem_rowCells (x y : Nat) (b : Byte) (px py : Nat) : (px, py) ∈ rowCells x y b ↔
    ∃ c, c < 8 ∧ b.getLsbD (7 - c) = true ∧ (x + c) % 64 = px ∧ y % 32 = py := by
  simp [rowCells, List.mem_filterMap]

/-- A sprite covers what its first row covers and what the sprite of its other rows covers one pixel below. -/
theorem spriteCovers_succ (row : Nat → Byte) (height x y px py : Nat) : SpriteCovers row (height + 1) x y px py ↔
    (px, py) ∈ rowCells x y (row 0) ∨ SpriteCovers (fun r => row (r + 1)) height x (y + 1) px py := by
  rw [mem_rowCells]
  constructor
  · rintro ⟨r, c, hr, hc, hbit, hx, hy⟩
    cases r with
    | zero => exact .inl ⟨c, hc, hbit, hx, hy⟩
    | succ r => exact .inr ⟨r, c, by omega, hc, hbit, hx, by omega⟩
  · rintro (⟨c, hc, hbit, hx, hy⟩ | ⟨r, c, hr, hc, hbit, hx, hy⟩)
    · exact ⟨0, c, by omega, hc, hbit, hx, hy⟩
    · exact ⟨r + 1, c, by omega, hc, hbit, hx, by omega⟩

/-- The compositor lists exactly the pixels a sprite covers (45_display.md R151). -/
theorem mem_spriteCells (x px py : Nat) : ∀ (rows : List Byte) (y : Nat),
    (px, py) ∈ spriteCells x y rows ↔ SpriteCovers (fun r => rows.getD r 0) rows.length x y px py
  | [], y => by simp [spriteCells, SpriteCovers]
  | b :: bs, y => by
    rw [spriteCells, List.mem_append, mem_spriteCells x px py bs (y + 1), List.length_cons, spriteCovers_succ]
    rfl

/-- A covered pixel lies in one of the rows of the sprite, wrapped. -/
theorem SpriteCovers.exists_row {row : Nat → Byte} {height x y px py : Nat} (h : SpriteCovers row height x y px py) :
    ∃ r, r < height ∧ (y + r) % 32 = py := by
  obtain ⟨r, c, hr, hc, hbit, hx, hy⟩ := h
  exact ⟨r, hr, hy⟩

theorem SpriteCovers.inFrame {row : Nat → Byte} {height x y px py : Nat} (h : SpriteCovers row height x y px py) :
    px < 64 ∧ py < 32 := by
  obtain ⟨r, c, hr, hc, hbit, rfl, rfl⟩ := h
  exact ⟨Nat.mod_lt _ (by decide), Nat.mod_lt _ (by decide)⟩

/-- Eight columns are fewer than 64, so the columns of a row stay apart when they wrap. -/
theorem nodup_rowCells (x y : Nat) (b : Byte) : (rowCells x y b).Nodup := by
  refine List.pairwise_filterMap.2 (List.pairwise_lt_range.imp_of_mem fun {c d} _ hd hcd p hp q hq hpq => ?_)
  have hd8 : d < 8 := List.mem_range.1 hd
  simp only [Option.ite_none_right_eq_some, Option.some.injEq] at hp hq
  have hcol : (x + c) % 64 = (x + d) % 64 := congrArg Prod.fst (hp.2.trans (hpq.trans hq.2.symm))
  omega

/-- At most 32 rows stay apart when they wrap, so a sprite lists no pixel twice. -/
theorem nodup_spriteCells (x : Nat) : ∀ (rows : List Byte) (y : Nat), rows.length ≤ 32 → (spriteCells x y rows).Nodup
  | [], _, _ => List.nodup_nil
  | b :: bs, y, h => by
    rw [List.length_cons] at h
    refine List.nodup_append'.2 ⟨nodup_rowCells x y b, nodup_spriteCells x bs (y + 1) (by omega), ?_⟩
    rintro ⟨px, py⟩ hrow hrest
    obtain ⟨c, -, -, -, hy⟩ := (mem_rowCells x y b px py).1 hrow
    obtain ⟨r, hr, hy'⟩ := ((mem_spriteCells x px py bs (y + 1)).1 hrest).exists_row
    omega

theorem distinctCells_spriteCells (x y : Nat) (rows : List Byte) (h : rows.length ≤ 32) :
    DistinctCells (spriteCells x y rows) :=
  ⟨fun ⟨px, py⟩ hp => ((mem_spriteCells x px py rows y).1 hp).inFrame, nodup_spriteCells x rows y h⟩

/-! ## Drawing a list of cells -/

/-- Between pixels of the frame, no address needs to be wrapped. -/
theorem pixelAt_togglePixel_inFrame (f : Frame) {p q : Nat × Nat} (hp : p.1 < 64 ∧ p.2 < 32) (hq : q.1 < 64 ∧ q.2 < 32) :
    pixelAt (togglePixel f p.1 p.2) q.1 q.2 = if q = p then !pixelAt f q.1 q.2 else pixelAt f q.1 q.2 := by
  rw [pixelAt_togglePixel, Nat.mod_eq_of_lt hp.1, Nat.mod_eq_of_lt hp.2, Nat.mod_eq_of_lt hq.1, Nat.mod_eq_of_lt hq.2]
  simp only [Prod.ext_iff]

/-- Drawing distinct cells toggles each of them once and no other pixel. -/
theorem pixelAt_foldl_drawCell {q : Nat × Nat} (hq : q.1 < 64 ∧ q.2 < 32) :
    ∀ {cells : List (Nat × Nat)} (fc : Frame × Bool), DistinctCells cells →
      pixelAt (cells.foldl drawCell fc).1 q.1 q.2 =
        if q ∈ cells then !pixelAt fc.1 q.1 q.2 else pixelAt fc.1 q.1 q.2
  | [], fc, _ => by simp
  | p :: ps, fc, h => by
    rw [List.foldl_cons, pixelAt_foldl_drawCell hq (drawCell fc p) h.tail, drawCell,
      pixelAt_togglePixel_inFrame fc.1 h.head_inFrame hq]
    by_cases hqp : q = p
    · subst hqp
      simp [h.head_notMem]
    · simp [hqp]

/-- Toggling the cells drawn before leaves every later one as it was, so the collision can be read off the frame as it was
before the first toggle. -/
theorem foldl_drawCell_collision : ∀ {cells : List (Nat × Nat)} (fc : Frame × Bool), DistinctCells cells →
    ((cells.foldl drawCell fc).2 = true ↔ fc.2 = true ∨ ∃ p ∈ cells, pixelAt fc.1 p.1 p.2 = true)
  | [], fc, _ => by simp
  | p :: ps, fc, h => by
    have later : ∀ q ∈ ps, pixelAt (drawCell fc p).1 q.1 q.2 = pixelAt fc.1 q.1 q.2 := fun q hq =>
      (pixelAt_togglePixel_inFrame fc.1 h.head_inFrame (h.tail.inFrame q hq)).trans
        (if_neg (ne_of_mem_of_not_mem hq h.head_notMem))
    have tailOn : (∃ q ∈ ps, pixelAt (drawCell fc p).1 q.1 q.2 = true) ↔ ∃ q ∈ ps, pixelAt fc.1 q.1 q.2 = true :=
      exists_congr fun q => and_congr_right fun hq => by rw [later q hq]
    rw [List.foldl_cons, foldl_drawCell_collision (drawCell fc p) h.tail, tailOn, drawCell, Bool.or_eq_true, or_assoc]
    simp only [List.mem_cons, exists_eq_or_imp]

/-! ## The compositor -/

theorem toggledWhere_drawSprite (f : Frame) (x y : Nat) (rows : List Byte) (h : rows.length ≤ 32) :
    ToggledWhere (SpriteCovers (fun r => rows.getD r 0) rows.length x y) f (drawSprite f x y rows).1 := by
  intro px py hpx hpy
  have pixel := pixelAt_foldl_drawCell (q := (px, py)) ⟨hpx, hpy⟩ (f, false) (distinctCells_spriteCells x y rows h)
  rw [← mem_spriteCells]
  exact ⟨fun hc => pixel.trans (if_pos hc), fun hc => pixel.trans (if_neg hc)⟩

theorem drawSprite_collision_iff (f : Frame) (x y : Nat) (rows : List Byte) (h : rows.length ≤ 32) :
    (drawSprite f x y rows).2 = true ↔ Collides (SpriteCovers (fun r => rows.getD r 0) rows.length x y) f := by
  rw [drawSprite, foldl_drawCell_collision (f, false) (distinctCells_spriteCells x y rows h)]
  constructor
  · rintro (hfalse | ⟨⟨px, py⟩, hp, hon⟩)
    · cases hfalse
    · have covers := (mem_spriteCells x px py rows y).1 hp
      exact ⟨px, py, covers.inFrame.1, covers.inFrame.2, covers, hon⟩
  · rintro ⟨px, py, -, -, covers, hon⟩
    exact .inr ⟨(px, py), (mem_spriteCells x px py rows y).2 covers, hon⟩

/-- Settles O40: fifteen rows wrap onto no pixel twice, so every covered pixel is toggled once and its state before the
toggle is its state before the call. -/
theorem spriteTogglesItsPixels : Obligations.SpriteTogglesItsPixels := by
  intro f x y rows h
  have h32 : rows.length ≤ 32 := h.trans (by decide)
  exact ⟨toggledWhere_drawSprite f x y rows h32, drawSprite_collision_iff f x y rows h32⟩

/-! ## Clearing the display -/

/-- A write of the framebuffer touches the display alone. -/
theorem keepsAllBut_setFb (s : State) (f : Frame) : KeepsAllBut [.display] s { s with fb := f } := by
  intro p hp
  cases p with
  | display => exact absurd (List.mem_singleton.2 rfl) hp
  | _ => simp [Unchanged, getReg]

theorem exec_cls (s : State) : exec .cls s = .next { advance s with fb := clearFrame } := rfl

theorem readsAs_cls : ReadsAs 0x00E0 .cls := by decide

/-- Settles O39: the meaning is the advance and one write of the framebuffer, whose new value is the clear frame. -/
theorem clsTurnsEveryPixelOff : Obligations.ClsTurnsEveryPixelOff :=
  ⟨readsAs_cls, fun s => ⟨_, exec_cls s, advance_pc s, pixelAt_clearFrame,
    (keepsAllBut_advance s).trans (keepsAllBut_setFb (advance s) clearFrame)⟩⟩

end Sys2Proof.Machine
end

section
/-! The rules the keys and timers rest on: the opcodes of the families E and F read back, a key skip as one write of `pc`,
the key that `FX0A` finds, the frame of a write of a timer. After them, the two key skips, the wait for a key and the three
timer moves (46_keys_timers.md R160 to R165). -/

namespace Sys2Proof

/-- An opcode `EX` with a low byte reads as what family E makes of it (30_encoding.md R74). -/
@[simp] theorem decodeWord_encodeX_E (x : Reg) (low : Nat) (hl : low < 256) :
    decodeWord (encodeX 0xE x low) = decodeFamilyE (encodeX 0xE x low) := by
  simp [decodeWord, hl]

theorem decodeWord_encode_skp (x : Reg) : decodeWord (encode (.skp x)) = .instr (.skp x) := by
  simp [encode, decodeFamilyE]

theorem decodeWord_encode_sknp (x : Reg) : decodeWord (encode (.sknp x)) = .instr (.sknp x) := by
  simp [encode, decodeFamilyE]

theorem decodeWord_encode_ldFromDt (x : Reg) : decodeWord (encode (.ldFromDt x)) = .instr (.ldFromDt x) := by
  simp [encode, decodeFamilyF]

theorem decodeWord_encode_waitKey (x : Reg) : decodeWord (encode (.waitKey x)) = .instr (.waitKey x) := by
  simp [encode, decodeFamilyF]

theorem decodeWord_encode_ldDt (x : Reg) : decodeWord (encode (.ldDt x)) = .instr (.ldDt x) := by
  simp [encode, decodeFamilyF]

theorem decodeWord_encode_ldSt (x : Reg) : decodeWord (encode (.ldSt x)) = .instr (.ldSt x) := by
  simp [encode, decodeFamilyF]

end Sys2Proof

namespace Sys2Proof.Machine

/-- What the decoder makes of format `X` is what the opcode with its fixed digits taken together reads as
(30_encoding.md R71). -/
theorem readsAs_of_decodeWord_encodeX {family low : Nat} {x : Reg} {i : Instr}
    (h : decodeWord (encodeX family x low) = .instr i) : ReadsAs (family * 0x1000 + low + x.val * 0x100) i :=
  (congrArg decodeWord (encodeX_eq_ofNat family x low)).symm.trans h

/-! ## The key skips -/

/-- The skip when a condition fails, of `EXA1`. -/
theorem skipIf_not_advance (c : Bool) (s : State) :
    skipIf (!c) (advance s) = setPc s (if c then s.pc + 2 else s.pc + 4) := by
  rw [skipIf_advance]
  cases c <;> rfl

theorem exec_skp (x : Reg) (s : State) : exec (.skp x) s =
    .next (setPc s (if isKeyPressed s (getReg s x).toNat then s.pc + 4 else s.pc + 2)) :=
  congrArg Host.Outcome.next (skipIf_advance (isKeyPressed s (getReg s x).toNat) s)

theorem exec_sknp (x : Reg) (s : State) : exec (.sknp x) s =
    .next (setPc s (if isKeyPressed s (getReg s x).toNat then s.pc + 2 else s.pc + 4)) :=
  congrArg Host.Outcome.next (skipIf_not_advance (isKeyPressed s (getReg s x).toNat) s)

/-- A key code reads its own flag (10_state.md R30). -/
theorem isKeyPressed_fin (s : State) (k : Fin 16) : isKeyPressed s k.val = s.key[k.val] :=
  isKeyPressed_of_lt s k.val k.isLt

/-- Settles O43: each skip is one write of `pc`, whose value depends on the key that the whole byte of V[X] names, if it
names one. -/
theorem keySkipsTestTheKey : Obligations.KeySkipsTestTheKey := by
  intro x
  refine ⟨readsAs_of_decodeWord_encodeX (decodeWord_encode_skp x),
    readsAs_of_decodeWord_encodeX (decodeWord_encode_sknp x), fun s => ?_⟩
  refine ⟨isKeyPressed_fin s, isKeyPressed_of_not_code s, _, _, exec_skp x s, exec_sknp x s, fun k hk => ?_, fun h => ?_,
    keepsAllBut_setPc s _, keepsAllBut_setPc s _⟩
  · rw [hk, isKeyPressed_fin]
    exact ⟨rfl, rfl⟩
  · rw [isKeyPressed_of_ge s _ h]
    exact ⟨rfl, rfl⟩

/-! ## The wait for a key -/

theorem lowestKey_eq_none_iff (s : State) : lowestKey s = none ↔ ∀ k : Fin 16, s.key[k.val] = false := by
  rw [lowestKey, firstKeyFrom_none]
  constructor
  · intro h k
    rw [← isKeyPressed_fin]
    exact h k.val (by omega) (by omega)
  · intro h j _ hj
    rw [isKeyPressed_of_lt s j (by omega)]
    exact h ⟨j, by omega⟩

/-- The key found is down and every smaller one is up. -/
theorem lowestKey_eq_some {s : State} {r : Nat} (h : lowestKey s = some r) :
    ∃ k : Fin 16, k.val = r ∧ s.key[k.val] = true ∧ ∀ j : Fin 16, j < k → s.key[j.val] = false := by
  obtain ⟨-, hr, hdown, hup⟩ := firstKeyFrom_some s 16 0 r h
  refine ⟨⟨r, by omega⟩, rfl, ?_, fun j hj => ?_⟩
  · rw [← isKeyPressed_fin]
    exact hdown
  · rw [← isKeyPressed_fin]
    exact hup j.val (by omega) hj

/-- Two keys that are both down, with every smaller one up, are the same key, so the search finds the lowest one. -/
theorem lowestKey_of_lowest {s : State} {k : Fin 16} (hk : s.key[k.val] = true)
    (hlow : ∀ j : Fin 16, j < k → s.key[j.val] = false) : lowestKey s = some k.val := by
  cases hfound : lowestKey s with
  | none => exact absurd hk (by simp [(lowestKey_eq_none_iff s).1 hfound k])
  | some r =>
    obtain ⟨m, rfl, hm, hmlow⟩ := lowestKey_eq_some hfound
    rcases lt_trichotomy m k with hlt | rfl | hgt
    · exact absurd hm (by simp [hlow m hlt])
    · rfl
    · exact absurd hk (by simp [hmlow k hgt])

/-- The rewind of `FX0A` takes the advance back (46_keys_timers.md R163). -/
theorem rewind_advance (s : State) : rewind (advance s) = s :=
  congrArg (setPc s) (BitVec.add_sub_cancel s.pc 2)

theorem exec_waitKey_none {s : State} (x : Reg) (h : lowestKey s = none) : exec (.waitKey x) s = .next s := by
  simp only [exec, execWaitKey, h, rewind_advance]

theorem exec_waitKey_some {s : State} {k : Nat} (x : Reg) (h : lowestKey s = some k) :
    exec (.waitKey x) s = .next (setReg (advance s) x (BitVec.ofNat 8 k)) := by
  simp only [exec, execWaitKey, h]

/-- Settles O44: with every key up the search finds none and the rewind cancels the advance; else it finds the lowest key
down, whose code fits in a byte. -/
theorem waitKeyRetriesOrTakesTheLowest : Obligations.WaitKeyRetriesOrTakesTheLowest := by
  intro x
  refine ⟨readsAs_of_decodeWord_encodeX (decodeWord_encode_waitKey x), fun s => ⟨fun hup => ?_, fun k hk hlow => ?_⟩⟩
  · exact exec_waitKey_none x ((lowestKey_eq_none_iff s).2 hup)
  · refine ⟨_, exec_waitKey_some x (lowestKey_of_lowest hk hlow), advance_pc s, ?_, regsKeptBut_setReg_advance s x _,
      keepsAllBut_setReg_advance s x _⟩
    rw [getReg_setReg_self, BitVec.toNat_ofNat]
    omega

/-! ## The timer moves -/

/-- A write of the delay timer touches that timer alone. -/
theorem keepsAllBut_setDt (s : State) (b : Byte) : KeepsAllBut [.delay] s { s with dt := b } := by
  intro p hp
  cases p with
  | delay => exact absurd (List.mem_singleton.2 rfl) hp
  | _ => simp [Unchanged, getReg]

/-- A write of the sound timer touches that timer alone. -/
theorem keepsAllBut_setSt (s : State) (b : Byte) : KeepsAllBut [.sound] s { s with st := b } := by
  intro p hp
  cases p with
  | sound => exact absurd (List.mem_singleton.2 rfl) hp
  | _ => simp [Unchanged, getReg]

theorem exec_ldFromDt (x : Reg) (s : State) : exec (.ldFromDt x) s = .next (setReg (advance s) x s.dt) := rfl

theorem exec_ldDt (x : Reg) (s : State) : exec (.ldDt x) s = .next { advance s with dt := getReg s x } := rfl

theorem exec_ldSt (x : Reg) (s : State) : exec (.ldSt x) s = .next { advance s with st := getReg s x } := rfl

/-- Settles O45: each move is the advance and one write, of V[X] with the delay timer or of one timer with V[X]. -/
theorem timerMovesCopyTheTimer : Obligations.TimerMovesCopyTheTimer := by
  intro x
  refine ⟨readsAs_of_decodeWord_encodeX (decodeWord_encode_ldFromDt x),
    readsAs_of_decodeWord_encodeX (decodeWord_encode_ldDt x),
    readsAs_of_decodeWord_encodeX (decodeWord_encode_ldSt x), fun s => ⟨?_, ?_, ?_⟩⟩
  · exact ⟨_, exec_ldFromDt x s, advance_pc s, getReg_setReg_self _ x _, regsKeptBut_setReg_advance s x _,
      keepsAllBut_setReg_advance s x _⟩
  · exact ⟨_, exec_ldDt x s, advance_pc s, rfl, (keepsAllBut_advance s).trans (keepsAllBut_setDt (advance s) _)⟩
  · exact ⟨_, exec_ldSt x s, advance_pc s, rfl, (keepsAllBut_advance s).trans (keepsAllBut_setSt (advance s) _)⟩

end Sys2Proof.Machine
end

section
/-! The decoder and the encoder as a whole: the formats the earlier sections did not read back, the fields of an opcode put
together again, and the six families that hold unknown opcodes. After them, the statements about the encoding
(30_encoding.md R71 to R75). -/

namespace Sys2Proof

/-! ## The other formats read back -/

theorem decodeWord_encode_cls : decodeWord (encode .cls) = .instr .cls := by decide

theorem decodeWord_encode_ret : decodeWord (encode .ret) = .instr .ret := by decide

theorem decodeWord_encode_call (nnn : Imm12) : decodeWord (encode (.call nnn)) = .instr (.call nnn) := by
  simp [encode, decodeWord]

theorem decodeWord_encode_jpV0 (nnn : Imm12) : decodeWord (encode (.jpV0 nnn)) = .instr (.jpV0 nnn) := by
  simp [encode, decodeWord]

theorem decodeWord_encode_rnd (x : Reg) (nn : Byte) : decodeWord (encode (.rnd x nn)) = .instr (.rnd x nn) := by
  simp [encode, decodeWord]

theorem decodeWord_encode_addReg (x y : Reg) : decodeWord (encode (.addReg x y)) = .instr (.addReg x y) := by
  simp [encode, decodeFamily8]

theorem decodeWord_encode_subReg (x y : Reg) : decodeWord (encode (.subReg x y)) = .instr (.subReg x y) := by
  simp [encode, decodeFamily8]

theorem decodeWord_encode_shr (x y : Reg) : decodeWord (encode (.shr x y)) = .instr (.shr x y) := by
  simp [encode, decodeFamily8]

theorem decodeWord_encode_subnReg (x y : Reg) : decodeWord (encode (.subnReg x y)) = .instr (.subnReg x y) := by
  simp [encode, decodeFamily8]

theorem decodeWord_encode_shl (x y : Reg) : decodeWord (encode (.shl x y)) = .instr (.shl x y) := by
  simp [encode, decodeFamily8]

@[simp] theorem fieldN_encodeXYN (family : Nat) (x y : Reg) (n : Imm4) (h : family < 16) :
    fieldN (encodeXYN family x y n.toNat) = n := by
  have := n.isLt
  apply BitVec.eq_of_toNat_eq
  rw [fieldN, BitVec.toNat_ofNat, toNat_encodeXYN family x y n.toNat h n.isLt]
  omega

theorem decodeWord_encode_drw (x y : Reg) (n : Imm4) : decodeWord (encode (.drw x y n)) = .instr (.drw x y n) := by
  have hn : n.toNat < 16 := n.isLt
  simp [encode, decodeWord, hn]

theorem decodeWord_encode_addI (x : Reg) : decodeWord (encode (.addI x)) = .instr (.addI x) := by
  simp [encode, decodeFamilyF]

theorem decodeWord_encode_bcd (x : Reg) : decodeWord (encode (.bcd x)) = .instr (.bcd x) := by
  simp [encode, decodeFamilyF]

theorem decodeWord_encode_storeRegs (x : Reg) : decodeWord (encode (.storeRegs x)) = .instr (.storeRegs x) := by
  simp [encode, decodeFamilyF]

theorem decodeWord_encode_loadRegs (x : Reg) : decodeWord (encode (.loadRegs x)) = .instr (.loadRegs x) := by
  simp [encode, decodeFamilyF]

/-- Every format reads back (30_encoding.md R71, R72). -/
theorem decodeWord_encode : ∀ i : Instr, decodeWord (encode i) = .instr i
  | .cls => decodeWord_encode_cls
  | .ret => decodeWord_encode_ret
  | .jp nnn => decodeWord_encode_jp nnn
  | .call nnn => decodeWord_encode_call nnn
  | .seImm x nn => decodeWord_encode_seImm x nn
  | .sneImm x nn => decodeWord_encode_sneImm x nn
  | .seReg x y => decodeWord_encode_seReg x y
  | .ldImm x nn => decodeWord_encode_ldImm x nn
  | .addImm x nn => decodeWord_encode_addImm x nn
  | .ldReg x y => decodeWord_encode_ldReg x y
  | .orReg x y => decodeWord_encode_orReg x y
  | .andReg x y => decodeWord_encode_andReg x y
  | .xorReg x y => decodeWord_encode_xorReg x y
  | .addReg x y => decodeWord_encode_addReg x y
  | .subReg x y => decodeWord_encode_subReg x y
  | .shr x y => decodeWord_encode_shr x y
  | .subnReg x y => decodeWord_encode_subnReg x y
  | .shl x y => decodeWord_encode_shl x y
  | .sneReg x y => decodeWord_encode_sneReg x y
  | .ldI nnn => decodeWord_encode_ldI nnn
  | .jpV0 nnn => decodeWord_encode_jpV0 nnn
  | .rnd x nn => decodeWord_encode_rnd x nn
  | .drw x y n => decodeWord_encode_drw x y n
  | .skp x => decodeWord_encode_skp x
  | .sknp x => decodeWord_encode_sknp x
  | .ldFromDt x => decodeWord_encode_ldFromDt x
  | .waitKey x => decodeWord_encode_waitKey x
  | .ldDt x => decodeWord_encode_ldDt x
  | .ldSt x => decodeWord_encode_ldSt x
  | .addI x => decodeWord_encode_addI x
  | .ldFont x => decodeWord_encode_ldFont x
  | .bcd x => decodeWord_encode_bcd x
  | .storeRegs x => decodeWord_encode_storeRegs x
  | .loadRegs x => decodeWord_encode_loadRegs x

/-- The operands are registers and bit vectors, and both fit their fields by their types (30_encoding.md R72). -/
theorem wellFormed_eq_true (i : Instr) : i.wellFormed = true := by
  cases i <;> simp [Instr.wellFormed, Instr.operands, Laws.fitsField_reg, Laws.fitsField_bits]

/-- An opcode is what its two bytes make, the high one first (20_memory.md R54). -/
theorem wordOfBytes_extractLsb' (w : Word) : wordOfBytes (w.extractLsb' 8 8) (w.extractLsb' 0 8) = w := by
  have := w.isLt
  apply BitVec.eq_of_toNat_eq
  rw [toNat_wordOfBytes, BitVec.extractLsb'_toNat, BitVec.extractLsb'_toNat, Nat.shiftRight_eq_div_pow]
  omega

theorem decodeBytes_bytesOfWord (w : Word) : decodeBytes (bytesOfWord w) = (decodeWord w, []) :=
  congrArg (fun v => (decodeWord v, [])) (wordOfBytes_extractLsb' w)

/-- Settles O3: every format reads back field by field, and an opcode's two bytes give the opcode again. -/
theorem decodeOfEncodeIsTheInstruction : Obligations.DecodeOfEncodeIsTheInstruction := by
  intro i
  refine ⟨wellFormed_eq_true i, decodeWord_encode i, ?_⟩
  rw [decodeBytes_bytesOfWord, decodeWord_encode]

/-! ## The fields put together again -/

theorem fieldFamily_lt (w : Word) : fieldFamily w < 16 := by
  have := w.isLt
  simp only [fieldFamily]
  omega

theorem encodeNNN_fieldNNN {w : Word} {family : Nat} (h : fieldFamily w = family) :
    encodeNNN family (fieldNNN w) = w := by
  subst h
  have := w.isLt
  apply BitVec.eq_of_toNat_eq
  rw [toNat_encodeNNN _ _ (fieldFamily_lt w), fieldFamily, fieldNNN, BitVec.toNat_ofNat]
  omega

theorem encodeXNN_fields {w : Word} {family : Nat} (h : fieldFamily w = family) :
    encodeXNN family (fieldX w) (fieldNN w) = w := by
  subst h
  have := w.isLt
  apply BitVec.eq_of_toNat_eq
  rw [toNat_encodeXNN _ _ _ (fieldFamily_lt w)]
  simp only [fieldFamily, fieldX, fieldNN, BitVec.toNat_ofNat]
  omega

theorem encodeXYN_fields {w : Word} {family n : Nat} (h : fieldFamily w = family) (hn : w.toNat % 0x10 = n) :
    encodeXYN family (fieldX w) (fieldY w) n = w := by
  subst h hn
  have := w.isLt
  apply BitVec.eq_of_toNat_eq
  rw [toNat_encodeXYN _ _ _ _ (fieldFamily_lt w) (Nat.mod_lt _ (by decide))]
  simp only [fieldFamily, fieldX, fieldY]
  omega

theorem encodeX_fieldX {w : Word} {family low : Nat} (h : fieldFamily w = family) (hl : w.toNat % 0x100 = low) :
    encodeX family (fieldX w) low = w := by
  subst h hl
  have := w.isLt
  apply BitVec.eq_of_toNat_eq
  rw [toNat_encodeX _ _ _ (fieldFamily_lt w) (Nat.mod_lt _ (by decide))]
  simp only [fieldFamily, fieldX]
  omega

theorem eq_of_family_zero {w : Word} {n : Nat} (h : fieldFamily w = 0) (hn : w.toNat % 0x1000 = n) :
    w = BitVec.ofNat 16 n := by
  have := w.isLt
  apply BitVec.eq_of_toNat_eq
  rw [BitVec.toNat_ofNat]
  simp only [fieldFamily] at h
  omega

theorem encode_of_decodeFamily0 {w : Word} {i : Instr} (h : fieldFamily w = 0) (hd : decodeFamily0 w = .instr i) :
    encode i = w := by
  unfold decodeFamily0 at hd
  split at hd <;> cases hd <;> exact (eq_of_family_zero h ‹_›).symm

theorem encode_of_decodeFamily8 {w : Word} {i : Instr} (h : fieldFamily w = 8) (hd : decodeFamily8 w = .instr i) :
    encode i = w := by
  unfold decodeFamily8 at hd
  split at hd <;> cases hd <;> exact encodeXYN_fields h ‹_›

theorem encode_of_decodeFamilyE {w : Word} {i : Instr} (h : fieldFamily w = 0xE) (hd : decodeFamilyE w = .instr i) :
    encode i = w := by
  unfold decodeFamilyE at hd
  split at hd <;> cases hd <;> exact encodeX_fieldX h ‹_›

theorem encode_of_decodeFamilyF {w : Word} {i : Instr} (h : fieldFamily w = 0xF) (hd : decodeFamilyF w = .instr i) :
    encode i = w := by
  unfold decodeFamilyF at hd
  split at hd <;> cases hd <;> exact encodeX_fieldX h ‹_›

theorem decodeWord_of_family_8 {w : Word} (h : fieldFamily w = 0x8) : decodeWord w = decodeFamily8 w := by
  simp [decodeWord, h]

theorem decodeWord_of_family_E {w : Word} (h : fieldFamily w = 0xE) : decodeWord w = decodeFamilyE w := by
  simp [decodeWord, h]

theorem decodeWord_of_family_F {w : Word} (h : fieldFamily w = 0xF) : decodeWord w = decodeFamilyF w := by
  simp [decodeWord, h]

theorem encode_of_decodeWord {w : Word} {i : Instr} (hd : decodeWord w = .instr i) : encode i = w := by
  have hlt := fieldFamily_lt w
  unfold decodeWord at hd
  split at hd
  case h_1 h => exact encode_of_decodeFamily0 h hd
  case h_6 h | h_10 h =>
    split at hd <;> cases hd
    exact encodeXYN_fields h ‹_›
  case h_9 h => exact encode_of_decodeFamily8 h hd
  case h_14 h =>
    cases hd
    exact encodeXYN_fields h (BitVec.toNat_ofNat w.toNat 4).symm
  case h_15 h => exact encode_of_decodeFamilyE h hd
  case h_16 => exact encode_of_decodeFamilyF (by grind) hd
  case h_2 h | h_3 h | h_11 h | h_12 h =>
    cases hd
    exact encodeNNN_fieldNNN h
  case h_4 h | h_5 h | h_7 h | h_8 h | h_13 h =>
    cases hd
    exact encodeXNN_fields h

/-- Settles O4: the decoder puts every field of the opcode into the term and matches every fixed digit, so the encoder has
all sixteen bits to write again. -/
theorem encodeOfDecodeIsTheOpcode : Obligations.EncodeOfDecodeIsTheOpcode := fun _ _ hd => encode_of_decodeWord hd

/-! ## The rows of the opcode map -/

/-- Whatever satisfies the mask and match of a row decodes to an instruction of that row. -/
def Selects (row : String × Word × Word) : Prop :=
  ∀ w : Word, w &&& row.2.1 = row.2.2 → ∃ i, decodeWord w = .instr i ∧ i.pattern = row.1

theorem fieldFamily_of_and_F000 {w : Word} {p : Nat} (hp : p < 16) (h : w &&& 0xF000#16 = BitVec.ofNat 16 (p * 0x1000)) :
    fieldFamily w = p := by
  have := congrArg BitVec.toNat h
  rw [toNat_and_F000, BitVec.toNat_ofNat] at this
  simp only [fieldFamily]
  omega

theorem fields_of_and_F00F {w : Word} {p q : Nat} (hp : p < 16) (hq : q < 16)
    (h : w &&& 0xF00F#16 = BitVec.ofNat 16 (p * 0x1000 + q)) : fieldFamily w = p ∧ w.toNat % 0x10 = q := by
  have := congrArg BitVec.toNat h
  rw [toNat_and_F00F, BitVec.toNat_ofNat] at this
  simp only [fieldFamily]
  omega

theorem fields_of_and_F0FF {w : Word} {p q : Nat} (hp : p < 16) (hq : q < 256)
    (h : w &&& 0xF0FF#16 = BitVec.ofNat 16 (p * 0x1000 + q)) : fieldFamily w = p ∧ w.toNat % 0x100 = q := by
  have := congrArg BitVec.toNat h
  rw [toNat_and_F0FF, BitVec.toNat_ofNat] at this
  simp only [fieldFamily]
  omega

/-- A row whose only fixed digit is the family. -/
theorem selects_of_family {name : String} (p : Nat) (hp : p < 16)
    (h : ∀ w, fieldFamily w = p → ∃ i, decodeWord w = .instr i ∧ i.pattern = name) :
    Selects (name, 0xF000, BitVec.ofNat 16 (p * 0x1000)) :=
  fun w hw => h w (fieldFamily_of_and_F000 hp hw)

/-- A row whose fixed digits are the first and the last. -/
theorem selects_of_lowDigit {name : String} (p q : Nat) (hp : p < 16) (hq : q < 16)
    (h : ∀ w, fieldFamily w = p → w.toNat % 0x10 = q → ∃ i, decodeWord w = .instr i ∧ i.pattern = name) :
    Selects (name, 0xF00F, BitVec.ofNat 16 (p * 0x1000 + q)) :=
  fun w hw => (fields_of_and_F00F hp hq hw).elim (h w)

/-- A row whose fixed digits are the first and the two of the low byte. -/
theorem selects_of_lowByte {name : String} (p q : Nat) (hp : p < 16) (hq : q < 256)
    (h : ∀ w, fieldFamily w = p → w.toNat % 0x100 = q → ∃ i, decodeWord w = .instr i ∧ i.pattern = name) :
    Selects (name, 0xF0FF, BitVec.ofNat 16 (p * 0x1000 + q)) :=
  fun w hw => (fields_of_and_F0FF hp hq hw).elim (h w)

theorem selects_cls : Selects ("00E0", 0xFFFF, 0x00E0) := fun w hw => by
  obtain rfl : w = 0x00E0 := (and_FFFF w).symm.trans hw
  exact ⟨.cls, decodeWord_encode_cls, rfl⟩

theorem selects_ret : Selects ("00EE", 0xFFFF, 0x00EE) := fun w hw => by
  obtain rfl : w = 0x00EE := (and_FFFF w).symm.trans hw
  exact ⟨.ret, decodeWord_encode_ret, rfl⟩

/-- The rows of family 8 share their form: the family, then the low digit. -/
theorem selects_family8 {name : String} (q : Nat) (hq : q < 16) (i : Reg → Reg → Instr)
    (hd : ∀ w, w.toNat % 0x10 = q → decodeFamily8 w = .instr (i (fieldX w) (fieldY w)))
    (hn : ∀ x y, (i x y).pattern = name) : Selects (name, 0xF00F, BitVec.ofNat 16 (0x8 * 0x1000 + q)) :=
  selects_of_lowDigit 0x8 q (by decide) hq fun w h hl => ⟨_, by rw [decodeWord_of_family_8 h, hd w hl], hn _ _⟩

/-- The rows of family E share their form: the family, then the low byte. -/
theorem selects_familyE {name : String} (q : Nat) (hq : q < 256) (i : Reg → Instr)
    (hd : ∀ w, w.toNat % 0x100 = q → decodeFamilyE w = .instr (i (fieldX w)))
    (hn : ∀ x, (i x).pattern = name) : Selects (name, 0xF0FF, BitVec.ofNat 16 (0xE * 0x1000 + q)) :=
  selects_of_lowByte 0xE q (by decide) hq fun w h hl => ⟨_, by rw [decodeWord_of_family_E h, hd w hl], hn _⟩

/-- The rows of family F share their form: the family, then the low byte. -/
theorem selects_familyF {name : String} (q : Nat) (hq : q < 256) (i : Reg → Instr)
    (hd : ∀ w, w.toNat % 0x100 = q → decodeFamilyF w = .instr (i (fieldX w)))
    (hn : ∀ x, (i x).pattern = name) : Selects (name, 0xF0FF, BitVec.ofNat 16 (0xF * 0x1000 + q)) :=
  selects_of_lowByte 0xF q (by decide) hq fun w h hl => ⟨_, by rw [decodeWord_of_family_F h, hd w hl], hn _⟩

theorem selects_of_mem_opcodeMap : ∀ row ∈ opcodeMap, Selects row := by
  simp only [opcodeMap, List.forall_mem_append, List.forall_mem_cons, List.not_mem_nil, false_imp_iff, implies_true,
    and_true]
  refine ⟨⟨⟨?_, ?_⟩, ?_⟩, ?_⟩
  · exact ⟨selects_cls,
      selects_ret,
      selects_of_family 0x1 (by decide) fun w h => ⟨.jp (fieldNNN w), by simp [decodeWord, h], rfl⟩,
      selects_of_family 0x2 (by decide) fun w h => ⟨.call (fieldNNN w), by simp [decodeWord, h], rfl⟩,
      selects_of_family 0x3 (by decide) fun w h => ⟨.seImm (fieldX w) (fieldNN w), by simp [decodeWord, h], rfl⟩,
      selects_of_family 0x4 (by decide) fun w h => ⟨.sneImm (fieldX w) (fieldNN w), by simp [decodeWord, h], rfl⟩,
      selects_of_lowDigit 0x5 0x0 (by decide) (by decide) fun w h hl =>
        ⟨.seReg (fieldX w) (fieldY w), by simp [decodeWord, h, hl], rfl⟩,
      selects_of_family 0x6 (by decide) fun w h => ⟨.ldImm (fieldX w) (fieldNN w), by simp [decodeWord, h], rfl⟩,
      selects_of_family 0x7 (by decide) fun w h => ⟨.addImm (fieldX w) (fieldNN w), by simp [decodeWord, h], rfl⟩⟩
  · exact ⟨selects_family8 0x0 (by decide) .ldReg (fun w hl => by simp [decodeFamily8, hl]) fun _ _ => rfl,
      selects_family8 0x1 (by decide) .orReg (fun w hl => by simp [decodeFamily8, hl]) fun _ _ => rfl,
      selects_family8 0x2 (by decide) .andReg (fun w hl => by simp [decodeFamily8, hl]) fun _ _ => rfl,
      selects_family8 0x3 (by decide) .xorReg (fun w hl => by simp [decodeFamily8, hl]) fun _ _ => rfl,
      selects_family8 0x4 (by decide) .addReg (fun w hl => by simp [decodeFamily8, hl]) fun _ _ => rfl,
      selects_family8 0x5 (by decide) .subReg (fun w hl => by simp [decodeFamily8, hl]) fun _ _ => rfl,
      selects_family8 0x6 (by decide) .shr (fun w hl => by simp [decodeFamily8, hl]) fun _ _ => rfl,
      selects_family8 0x7 (by decide) .subnReg (fun w hl => by simp [decodeFamily8, hl]) fun _ _ => rfl,
      selects_family8 0xE (by decide) .shl (fun w hl => by simp [decodeFamily8, hl]) fun _ _ => rfl⟩
  · exact ⟨selects_of_lowDigit 0x9 0x0 (by decide) (by decide) fun w h hl =>
        ⟨.sneReg (fieldX w) (fieldY w), by simp [decodeWord, h, hl], rfl⟩,
      selects_of_family 0xA (by decide) fun w h => ⟨.ldI (fieldNNN w), by simp [decodeWord, h], rfl⟩,
      selects_of_family 0xB (by decide) fun w h => ⟨.jpV0 (fieldNNN w), by simp [decodeWord, h], rfl⟩,
      selects_of_family 0xC (by decide) fun w h => ⟨.rnd (fieldX w) (fieldNN w), by simp [decodeWord, h], rfl⟩,
      selects_of_family 0xD (by decide) fun w h => ⟨.drw (fieldX w) (fieldY w) (fieldN w), by simp [decodeWord, h], rfl⟩,
      selects_familyE 0x9E (by decide) .skp (fun w hl => by simp [decodeFamilyE, hl]) fun _ => rfl,
      selects_familyE 0xA1 (by decide) .sknp (fun w hl => by simp [decodeFamilyE, hl]) fun _ => rfl⟩
  · exact ⟨selects_familyF 0x07 (by decide) .ldFromDt (fun w hl => by simp [decodeFamilyF, hl]) fun _ => rfl,
      selects_familyF 0x0A (by decide) .waitKey (fun w hl => by simp [decodeFamilyF, hl]) fun _ => rfl,
      selects_familyF 0x15 (by decide) .ldDt (fun w hl => by simp [decodeFamilyF, hl]) fun _ => rfl,
      selects_familyF 0x18 (by decide) .ldSt (fun w hl => by simp [decodeFamilyF, hl]) fun _ => rfl,
      selects_familyF 0x1E (by decide) .addI (fun w hl => by simp [decodeFamilyF, hl]) fun _ => rfl,
      selects_familyF 0x29 (by decide) .ldFont (fun w hl => by simp [decodeFamilyF, hl]) fun _ => rfl,
      selects_familyF 0x33 (by decide) .bcd (fun w hl => by simp [decodeFamilyF, hl]) fun _ => rfl,
      selects_familyF 0x55 (by decide) .storeRegs (fun w hl => by simp [decodeFamilyF, hl]) fun _ => rfl,
      selects_familyF 0x65 (by decide) .loadRegs (fun w hl => by simp [decodeFamilyF, hl]) fun _ => rfl⟩

/-- No name stands in two rows of the map. -/
theorem row_eq_of_name_eq : ∀ row ∈ opcodeMap, ∀ row' ∈ opcodeMap, row.1 = row'.1 → row = row' := by decide

theorem opcodeRow : ∀ i : Instr, Laws.OpcodeRow.Statement i
  | .cls => Laws.OpcodeRow.cls
  | .ret => Laws.OpcodeRow.ret
  | .jp nnn => Laws.OpcodeRow.jp nnn
  | .call nnn => Laws.OpcodeRow.call nnn
  | .seImm x nn => Laws.OpcodeRow.seImm x nn
  | .sneImm x nn => Laws.OpcodeRow.sneImm x nn
  | .seReg x y => Laws.OpcodeRow.seReg x y
  | .ldImm x nn => Laws.OpcodeRow.ldImm x nn
  | .addImm x nn => Laws.OpcodeRow.addImm x nn
  | .ldReg x y => Laws.OpcodeRow.ldReg x y
  | .orReg x y => Laws.OpcodeRow.orReg x y
  | .andReg x y => Laws.OpcodeRow.andReg x y
  | .xorReg x y => Laws.OpcodeRow.xorReg x y
  | .addReg x y => Laws.OpcodeRow.addReg x y
  | .subReg x y => Laws.OpcodeRow.subReg x y
  | .shr x y => Laws.OpcodeRow.shr x y
  | .subnReg x y => Laws.OpcodeRow.subnReg x y
  | .shl x y => Laws.OpcodeRow.shl x y
  | .sneReg x y => Laws.OpcodeRow.sneReg x y
  | .ldI nnn => Laws.OpcodeRow.ldI nnn
  | .jpV0 nnn => Laws.OpcodeRow.jpV0 nnn
  | .rnd x nn => Laws.OpcodeRow.rnd x nn
  | .drw x y n => Laws.OpcodeRow.drw x y n
  | .skp x => Laws.OpcodeRow.skp x
  | .sknp x => Laws.OpcodeRow.sknp x
  | .ldFromDt x => Laws.OpcodeRow.ldFromDt x
  | .waitKey x => Laws.OpcodeRow.waitKey x
  | .ldDt x => Laws.OpcodeRow.ldDt x
  | .ldSt x => Laws.OpcodeRow.ldSt x
  | .addI x => Laws.OpcodeRow.addI x
  | .ldFont x => Laws.OpcodeRow.ldFont x
  | .bcd x => Laws.OpcodeRow.bcd x
  | .storeRegs x => Laws.OpcodeRow.storeRegs x
  | .loadRegs x => Laws.OpcodeRow.loadRegs x

/-- Settles O1: whatever matches a row is decoded to it; and an opcode that decodes is the encoding of its instruction,
which matches the one row of that name. -/
theorem opcodeMapSelectsTheInstruction : Obligations.OpcodeMapSelectsTheInstruction := by
  intro row hrow w
  refine ⟨selects_of_mem_opcodeMap row hrow w, ?_⟩
  rintro ⟨i, hd, hname⟩
  obtain ⟨mask, pattern, hmem, hmatch⟩ := opcodeRow i
  obtain rfl := row_eq_of_name_eq row hrow _ hmem hname.symm
  rw [← encode_of_decodeWord hd]
  exact hmatch

/-! ## The unknown opcodes -/

theorem decodeFamily0_eq_unknown_iff (w : Word) :
    decodeFamily0 w = .unknown w ↔ w.toNat % 0x1000 ≠ 0x0E0 ∧ w.toNat % 0x1000 ≠ 0x0EE := by
  unfold decodeFamily0
  split <;> simp_all

theorem decodeFamily8_eq_unknown_iff (w : Word) :
    decodeFamily8 w = .unknown w ↔ w.toNat % 0x10 ∈ [0x8, 0x9, 0xA, 0xB, 0xC, 0xD, 0xF] := by
  have hlt : w.toNat % 0x10 < 0x10 := Nat.mod_lt _ (by decide)
  unfold decodeFamily8
  interval_cases w.toNat % 0x10 <;> simp

theorem decodeFamilyE_eq_unknown_iff (w : Word) :
    decodeFamilyE w = .unknown w ↔ w.toNat % 0x100 ∉ [0x9E, 0xA1] := by
  unfold decodeFamilyE
  split <;> simp_all

theorem decodeFamilyF_eq_unknown_iff (w : Word) :
    decodeFamilyF w = .unknown w ↔
      w.toNat % 0x100 ∉ [0x07, 0x0A, 0x15, 0x18, 0x1E, 0x29, 0x33, 0x55, 0x65] := by
  unfold decodeFamilyF
  split <;> simp_all

/-- In family 0 the low twelve bits are the whole opcode. -/
theorem ne_iff_of_family_zero {w : Word} (h : fieldFamily w = 0) {n : Nat} (hn : n < 0x1000) :
    w ≠ BitVec.ofNat 16 n ↔ w.toNat % 0x1000 ≠ n := by
  refine not_congr ⟨fun hw => ?_, eq_of_family_zero h⟩
  rw [hw, BitVec.toNat_ofNat]
  omega

/-- Settles O2: ten families decode every opcode, and the other six leave out exactly their lists. -/
theorem unknownOpcodesAreExactlyTheListed : Obligations.UnknownOpcodesAreExactlyTheListed := by
  intro w
  change _ ↔ (fieldFamily w = 0x0 ∧ w ≠ BitVec.ofNat 16 0x00E0 ∧ w ≠ BitVec.ofNat 16 0x00EE) ∨
    (fieldFamily w = 0x5 ∧ _) ∨ (fieldFamily w = 0x8 ∧ _) ∨ (fieldFamily w = 0x9 ∧ _) ∨ (fieldFamily w = 0xE ∧ _) ∨
    (fieldFamily w = 0xF ∧ _)
  rw [← decodeFamily8_eq_unknown_iff, ← decodeFamilyE_eq_unknown_iff, ← decodeFamilyF_eq_unknown_iff]
  by_cases h0 : fieldFamily w = 0
  · rw [ne_iff_of_family_zero h0 (by decide), ne_iff_of_family_zero h0 (by decide), ← decodeFamily0_eq_unknown_iff]
    simp [decodeWord, h0]
  · have hlt := fieldFamily_lt w
    have hpos : 0 < fieldFamily w := Nat.pos_of_ne_zero h0
    interval_cases hf : fieldFamily w <;> simp [decodeWord, hf]

/-- Settles O5: the decoder is run on the eight opcodes. -/
theorem writtenOutOpcodesDecode : Obligations.WrittenOutOpcodesDecode := by
  unfold Obligations.WrittenOutOpcodesDecode
  decide

end Sys2Proof
end

section
/-! The rules the other instructions rest on: each meaning as one state written with the model's operations, the frame of
the operations the earlier sections did not need, and from both the parts of the state that each instruction can write. -/

namespace Sys2Proof.Machine

/-! ## The meanings -/

theorem exec_ret (s : State) : exec .ret s = .next (setPc (dropTop s) (topOfStack s)) := rfl

theorem exec_call (nnn : Imm12) (s : State) :
    exec (.call nnn) s = .next (setPc (push (advance s) (s.pc + 2)) (zext16 nnn)) := rfl

theorem exec_jpV0 (nnn : Imm12) (s : State) : exec (.jpV0 nnn) s = .next (setPc s (offsetTarget s nnn)) := rfl

theorem exec_addReg (x y : Reg) (s : State) : exec (.addReg x y) s =
    .next (writeFlagThenReg (advance s) (carryFlag (getReg s x) (getReg s y)) x (getReg s x + getReg s y)) := rfl

theorem exec_subReg (x y : Reg) (s : State) : exec (.subReg x y) s =
    .next (writeFlagThenReg (advance s) (noBorrowFlag (getReg s x) (getReg s y)) x (getReg s x - getReg s y)) := rfl

theorem exec_shr (x y : Reg) (s : State) : exec (.shr x y) s =
    .next (writeFlagThenReg (advance s) (shrFlag (getReg s x)) x (getReg s x >>> 1)) := rfl

theorem exec_subnReg (x y : Reg) (s : State) : exec (.subnReg x y) s =
    .next (writeFlagThenReg (advance s) (noBorrowFlag (getReg s y) (getReg s x)) x (getReg s y - getReg s x)) := rfl

theorem exec_shl (x y : Reg) (s : State) : exec (.shl x y) s =
    .next (writeFlagThenReg (advance s) (shlFlag (getReg s x)) x (getReg s x <<< 1)) := rfl

theorem exec_rnd (x : Reg) (nn : Byte) (s : State) :
    exec (.rnd x nn) s = .next (rndWith (Config.randomByte s.draws) x nn s) := rfl

theorem exec_drw (x y : Reg) (n : Imm4) (s : State) :
    exec (.drw x y n) s = withRange s n.toNat (drawAt s x y (spriteRows s n)) := rfl

theorem exec_addI (x : Reg) (s : State) : exec (.addI x) s =
    .next (setI (setReg (advance s) vf (indexFlag (indexSum s x))) (truncatedIndex (indexSum s x))) := rfl

theorem exec_bcd (x : Reg) (s : State) : exec (.bcd x) s =
    withRange s 3 { advance s with mem := storeBytes s.mem s.i.toNat (decimalDigits (getReg s x)) } := rfl

theorem exec_storeRegs (x : Reg) (s : State) : exec (.storeRegs x) s =
    withRange s (x.val + 1) { advance s with mem := storeBytes s.mem s.i.toNat (regList s x) } := rfl

theorem exec_loadRegs (x : Reg) (s : State) : exec (.loadRegs x) s =
    withRange s (x.val + 1) (loadRegList (advance s) (loadBytes s.mem s.i.toNat (x.val + 1))) := rfl

/-- The two ends of `FX0A`: the state it started from, or one register written (46_keys_timers.md R163). -/
theorem exec_waitKey_cases (x : Reg) (s : State) : exec (.waitKey x) s = .next s ∨
    ∃ b, exec (.waitKey x) s = .next (setReg (advance s) x b) := by
  cases h : lowestKey s with
  | none => exact .inl (exec_waitKey_none x h)
  | some k => exact .inr ⟨_, exec_waitKey_some x h⟩

/-- A skip writes `pc` with the address of the next instruction or of the one after it. -/
def IsSkip (i : Instr) (s : State) : Prop := ∃ w, (w = s.pc + 2 ∨ w = s.pc + 4) ∧ exec i s = .next (setPc s w)

theorem isSkip_of_ite {i : Instr} {s : State} {c : Prop} [Decidable c] {a b : Word}
    (h : exec i s = .next (setPc s (if c then a else b))) (ha : a = s.pc + 2 ∨ a = s.pc + 4)
    (hb : b = s.pc + 2 ∨ b = s.pc + 4) : IsSkip i s :=
  ⟨_, by split <;> assumption, h⟩

theorem isSkip_seImm (x : Reg) (nn : Byte) (s : State) : IsSkip (.seImm x nn) s :=
  isSkip_of_ite (exec_seImm x nn s) (.inr rfl) (.inl rfl)

theorem isSkip_sneImm (x : Reg) (nn : Byte) (s : State) : IsSkip (.sneImm x nn) s :=
  isSkip_of_ite (exec_sneImm x nn s) (.inl rfl) (.inr rfl)

theorem isSkip_seReg (x y : Reg) (s : State) : IsSkip (.seReg x y) s :=
  isSkip_of_ite (exec_seReg x y s) (.inr rfl) (.inl rfl)

theorem isSkip_sneReg (x y : Reg) (s : State) : IsSkip (.sneReg x y) s :=
  isSkip_of_ite (exec_sneReg x y s) (.inl rfl) (.inr rfl)

theorem isSkip_skp (x : Reg) (s : State) : IsSkip (.skp x) s :=
  isSkip_of_ite (exec_skp x s) (.inr rfl) (.inl rfl)

theorem isSkip_sknp (x : Reg) (s : State) : IsSkip (.sknp x) s :=
  isSkip_of_ite (exec_sknp x s) (.inl rfl) (.inr rfl)

/-! ## The frames -/

theorem keepsAllBut_refl (s : State) : KeepsAllBut [] s s := by
  intro p _
  cases p <;> simp [Unchanged]

/-- A push touches the stack alone. -/
theorem keepsAllBut_push (s : State) (a : Word) : KeepsAllBut [.stack] s (push s a) := by
  intro p hp
  cases p with
  | stack => exact absurd (List.mem_singleton.2 rfl) hp
  | _ => simp [Unchanged, getReg]

/-- A pop touches the stack alone. -/
theorem keepsAllBut_dropTop (s : State) : KeepsAllBut [.stack] s (dropTop s) := by
  intro p hp
  cases p with
  | stack => exact absurd (List.mem_singleton.2 rfl) hp
  | _ => simp [Unchanged, getReg]

/-- A run of register writes touches the register file alone. -/
theorem keepsAllBut_loadRegList (s : State) (bs : List Byte) : KeepsAllBut [.regs] s (loadRegList s bs) := by
  intro p hp
  cases p with
  | regs => exact absurd (List.mem_singleton.2 rfl) hp
  | _ => simp [Unchanged]

/-- A write of memory touches memory alone. -/
theorem keepsAllBut_setMem (s : State) (m : Memory) : KeepsAllBut [.memory] s { s with mem := m } := by
  intro p hp
  cases p with
  | memory => exact absurd (List.mem_singleton.2 rfl) hp
  | _ => simp [Unchanged, getReg]

/-- A count of the draws touches that counter alone. -/
theorem keepsAllBut_setDraws (s : State) (n : Nat) : KeepsAllBut [.draws] s { s with draws := n } := by
  intro p hp
  cases p with
  | draws => exact absurd (List.mem_singleton.2 rfl) hp
  | _ => simp [Unchanged, getReg]

theorem keepsAllBut_setMem_advance (s : State) (m : Memory) : KeepsAllBut [.memory] s { advance s with mem := m } :=
  (keepsAllBut_advance s).trans (keepsAllBut_setMem (advance s) m)

theorem keepsAllBut_loadRegList_advance (s : State) (bs : List Byte) :
    KeepsAllBut [.regs] s (loadRegList (advance s) bs) :=
  (keepsAllBut_advance s).trans (keepsAllBut_loadRegList (advance s) bs)

/-- The two register writes of a flag writer touch the register file alone. -/
theorem keepsAllBut_writeFlagThenReg_advance (s : State) (flag : Byte) (x : Reg) (b : Byte) :
    KeepsAllBut [.regs] s (writeFlagThenReg (advance s) flag x b) :=
  ((keepsAllBut_setReg_advance s vf flag).trans (keepsAllBut_setReg _ x b)).mono (by decide)

theorem keepsAllBut_rndWith (random : Byte) (x : Reg) (nn : Byte) (s : State) :
    KeepsAllBut [.regs, .draws] s (rndWith random x nn s) :=
  (keepsAllBut_setReg_advance s x _).trans (keepsAllBut_setDraws _ _)

theorem keepsAllBut_drawAt (s : State) (x y : Reg) (rows : List Byte) :
    KeepsAllBut [.regs, .display] s (drawAt s x y rows) :=
  (keepsAllBut_setReg_advance s vf _).trans (keepsAllBut_setFb _ _)

/-- `FX1E` writes the register file, for the flag, and the index register. -/
theorem keepsAllBut_addIndex (s : State) (flag : Byte) (w : Word) :
    KeepsAllBut [.regs, .index] s (setI (setReg (advance s) vf flag) w) :=
  (keepsAllBut_setReg_advance s vf flag).trans (keepsAllBut_setI _ w)

theorem keepsAllBut_call (s : State) (a w : Word) : KeepsAllBut [.stack] s (setPc (push (advance s) a) w) :=
  ((keepsAllBut_advance s).trans (keepsAllBut_push _ a)).trans (keepsAllBut_setPc _ w)

theorem keepsAllBut_ret (s : State) (w : Word) : KeepsAllBut [.stack] s (setPc (dropTop s) w) :=
  (keepsAllBut_dropTop s).trans (keepsAllBut_setPc _ w)

/-- An instruction that checks a range writes the latch or what it writes once the check has passed. -/
theorem keepsAllBut_of_withRange {ps : List Part} {s t done : State} {len : Nat} (h : withRange s len done = .next t)
    (hd : KeepsAllBut ps s done) : KeepsAllBut (.latch :: ps) s t := by
  obtain ⟨-, rfl⟩ | ⟨-, rfl⟩ := withRange_cases s t len done h
  · exact (keepsAllBut_raiseFault _ _ s).mono (by simp)
  · exact hd.mono fun p hp => List.mem_cons_of_mem _ hp

theorem IsSkip.keepsAllBut {i : Instr} {s t : State} (hi : IsSkip i s) (h : exec i s = .next t) : KeepsAllBut [] s t := by
  obtain ⟨w, -, hw⟩ := hi
  cases hw.symm.trans h
  exact keepsAllBut_setPc s w

/-- The parts of the state an instruction can write, `pc` apart. -/
def partsWritten : Instr → List Part
  | .jp _ | .jpV0 _ | .seImm _ _ | .sneImm _ _ | .seReg _ _ | .sneReg _ _ | .skp _ | .sknp _ => []
  | .ret | .call _ => [.stack]
  | .ldImm _ _ | .addImm _ _ | .ldReg _ _ | .orReg _ _ | .andReg _ _ | .xorReg _ _ | .addReg _ _ | .subReg _ _
  | .shr _ _ | .subnReg _ _ | .shl _ _ | .ldFromDt _ | .waitKey _ => [.regs]
  | .rnd _ _ => [.regs, .draws]
  | .ldI _ | .ldFont _ => [.index]
  | .addI _ => [.regs, .index]
  | .cls => [.display]
  | .ldDt _ => [.delay]
  | .ldSt _ => [.sound]
  | .drw _ _ _ => [.latch, .regs, .display]
  | .bcd _ | .storeRegs _ => [.latch, .memory]
  | .loadRegs _ => [.latch, .regs]

/-- What an instruction leaves unchanged, for every instruction: each is a composition of operations with known frames. -/
theorem exec_keepsAllBut {i : Instr} {s t : State} (h : exec i s = .next t) : KeepsAllBut (partsWritten i) s t := by
  cases i with
  | cls => cases h; exact (keepsAllBut_advance s).trans (keepsAllBut_setFb _ _)
  | ret => cases h; exact keepsAllBut_ret s _
  | jp nnn | jpV0 nnn => cases h; exact keepsAllBut_setPc s _
  | call nnn => cases h; exact keepsAllBut_call s _ _
  | seImm x nn => exact (isSkip_seImm x nn s).keepsAllBut h
  | sneImm x nn => exact (isSkip_sneImm x nn s).keepsAllBut h
  | seReg x y => exact (isSkip_seReg x y s).keepsAllBut h
  | sneReg x y => exact (isSkip_sneReg x y s).keepsAllBut h
  | skp x => exact (isSkip_skp x s).keepsAllBut h
  | sknp x => exact (isSkip_sknp x s).keepsAllBut h
  | ldImm x _ | addImm x _ | ldReg x _ | orReg x _ | andReg x _ | xorReg x _ | ldFromDt x =>
    cases h; exact keepsAllBut_setReg_advance s x _
  | addReg x _ | subReg x _ | shr x _ | subnReg x _ | shl x _ =>
    cases h; exact keepsAllBut_writeFlagThenReg_advance s _ x _
  | waitKey x =>
    obtain hw | ⟨b, hw⟩ := exec_waitKey_cases x s <;> cases hw.symm.trans h
    · exact (keepsAllBut_refl s).mono (by simp)
    · exact keepsAllBut_setReg_advance s x b
  | rnd x nn => cases h; exact keepsAllBut_rndWith _ x nn s
  | ldI _ | ldFont _ => cases h; exact keepsAllBut_setI_advance s _
  | addI x => cases h; exact keepsAllBut_addIndex s _ _
  | ldDt x => cases h; exact (keepsAllBut_advance s).trans (keepsAllBut_setDt _ _)
  | ldSt x => cases h; exact (keepsAllBut_advance s).trans (keepsAllBut_setSt _ _)
  | drw x y n => exact keepsAllBut_of_withRange h (keepsAllBut_drawAt s x y _)
  | bcd x | storeRegs x => exact keepsAllBut_of_withRange h (keepsAllBut_setMem_advance s _)
  | loadRegs x => exact keepsAllBut_of_withRange h (keepsAllBut_loadRegList_advance s _)

/-! ## The outcomes of an instruction -/

theorem withRange_next (s : State) (len : Nat) (done : State) : ∃ t, withRange s len done = .next t := by
  unfold withRange
  split <;> exact ⟨_, rfl⟩

/-- No instruction stops the machine: every meaning gives a next state (40_execute_cycle.md R93). -/
theorem exec_next (i : Instr) (s : State) : ∃ t, exec i s = .next t := by
  cases i with
  | waitKey x => exact (exec_waitKey_cases x s).elim (fun h => ⟨_, h⟩) fun ⟨_, h⟩ => ⟨_, h⟩
  | drw _ _ _ | bcd _ | storeRegs _ | loadRegs _ => exact withRange_next s _ _
  | _ => exact ⟨_, rfl⟩

theorem latch_cases_of_withRange {ps : List Part} {s t done : State} {len : Nat} (h : withRange s len done = .next t)
    (hd : KeepsAllBut ps s done) (hps : .latch ∉ ps) :
    Unchanged s t .latch ∨ ∃ info, 4095 < info ∧ t = raiseFault .dataOutOfBounds info s := by
  obtain ⟨hlen, rfl⟩ | ⟨-, rfl⟩ := withRange_cases s t len done h
  · exact .inr ⟨_, hlen.2, rfl⟩
  · exact .inl (hd .latch hps)

/-- The byte a `STEP` event carries matters to `CXNN` only (10_state.md R35). -/
theorem execWith_of_ne_rnd (random : Byte) {i : Instr} (s : State) (hi : ∀ x nn, i ≠ .rnd x nn) :
    execWith random i s = exec i s := by
  cases i with
  | rnd x nn => exact absurd rfl (hi x nn)
  | _ => rfl

/-- An instruction leaves the latch alone or takes `DataOutOfBounds` and does nothing else (60_exceptions.md R174). -/
theorem exec_latch_cases {i : Instr} {s t : State} (h : exec i s = .next t) :
    Unchanged s t .latch ∨ ∃ info, 4095 < info ∧ t = raiseFault .dataOutOfBounds info s := by
  cases i with
  | drw x y n => exact latch_cases_of_withRange h (keepsAllBut_drawAt s x y _) (by decide)
  | bcd x | storeRegs x => exact latch_cases_of_withRange h (keepsAllBut_setMem_advance s _) (by decide)
  | loadRegs x => exact latch_cases_of_withRange h (keepsAllBut_loadRegList_advance s _) (by decide)
  | _ => exact .inl (exec_keepsAllBut h .latch (by simp [partsWritten]))

/-- A fault is a next state that differs from the start in its latch (60_exceptions.md R172). -/
theorem faultTaken_raiseFault (c : FaultCause) (info : Nat) (s : State) : FaultTaken c info s (raiseFault c info s) :=
  ⟨rfl, rfl, rfl, rfl, rfl, keepsAllBut_raiseFault c info s⟩

end Sys2Proof.Machine
end

section
/-! The invariant of 10_state.md R37: each operation keeps it under a bound on what it writes, so every instruction keeps it
and with it every event. -/

namespace Sys2Proof.Machine

/-! ## The operations keep the invariant -/

section
variable {s : State} (h : Legal s)
include h

theorem Legal.setPc {w : Word} (hw : w.toNat ≤ 0x10FE) : Legal (setPc s w) :=
  ⟨h.index, hw, h.slots, h.memory, h.latch⟩

theorem Legal.setReg (x : Reg) (b : Byte) : Legal (setReg s x b) :=
  ⟨h.index, h.counter, h.slots, h.memory, h.latch⟩

theorem Legal.loadRegList (bs : List Byte) : Legal (loadRegList s bs) :=
  ⟨h.index, h.counter, h.slots, h.memory, h.latch⟩

theorem Legal.setI {w : Word} (hw : w.toNat ≤ 0xFFF) : Legal (setI s w) :=
  ⟨hw, h.counter, h.slots, h.memory, h.latch⟩

theorem Legal.setFb (f : Frame) : Legal { s with fb := f } :=
  ⟨h.index, h.counter, h.slots, h.memory, h.latch⟩

theorem Legal.setTimers (d t : Byte) : Legal { s with dt := d, st := t } :=
  ⟨h.index, h.counter, h.slots, h.memory, h.latch⟩

theorem Legal.setKeys (k : Vector Bool 16) : Legal { s with key := k } :=
  ⟨h.index, h.counter, h.slots, h.memory, h.latch⟩

theorem Legal.setDraws (n : Nat) : Legal { s with draws := n } :=
  ⟨h.index, h.counter, h.slots, h.memory, h.latch⟩

theorem Legal.storeBytes {a : Nat} {bs : List Byte} (hb : a + bs.length ≤ 4096) :
    Legal { s with mem := storeBytes s.mem a bs } :=
  ⟨h.index, h.counter, h.slots, wf_storeBytes bs hb h.memory, h.latch⟩

/-- A pushed address is bounded like the slots. -/
theorem Legal.push {a : Word} (ha : a.toNat ≤ 4096) : Legal (push s a) := by
  refine ⟨by simpa using h.index, by simpa using h.counter, fun j => ?_, by simpa using h.memory, by simpa using h.latch⟩
  rw [getElem_stack_push]
  split
  · exact ha
  · exact h.slots j

theorem Legal.dropTop : Legal (dropTop s) :=
  ⟨h.index, h.counter, h.slots, h.memory, h.latch⟩

theorem Legal.raiseFault {c : FaultCause} (info : Nat) (hc : c ≠ .noFault) : Legal (raiseFault c info s) :=
  ⟨h.index, h.counter, h.slots, h.memory, iff_of_true rfl hc⟩

/-- What a pop returns is the sentinel 0 or a slot (10_state.md R26). -/
theorem Legal.toNat_topOfStack_le : (topOfStack s).toNat ≤ 4096 := by
  unfold topOfStack
  split
  · exact h.slots ⟨s.sp.val - 1, by omega⟩
  · exact Nat.zero_le _

theorem Legal.of_withRange {t done : State} {len : Nat} (hr : withRange s len done = .next t)
    (hd : len = 0 ∨ s.i.toNat + len ≤ 4096 → Legal done) : Legal t := by
  obtain ⟨-, rfl⟩ | ⟨hlen, rfl⟩ := withRange_cases s t len done hr
  · exact h.raiseFault _ (by decide)
  · exact hd (by omega)

end

/-! ## The instructions keep the invariant -/

/-- The address a skip takes, as a number. -/
theorem toNat_pc_add_four {s : State} (h : s.pc.toNat ≤ 4094) : (s.pc + 4).toNat = s.pc.toNat + 4 := by
  have h4 : (4 : Word).toNat = 4 := rfl
  rw [BitVec.toNat_add, h4]
  omega

section
variable {s : State} (h : Legal s) (hpc : s.pc.toNat ≤ 4094)
include h hpc

theorem Legal.advance : Legal (advance s) :=
  h.setPc (w := s.pc + 2) (by rw [toNat_pc_add_two hpc]; omega)

theorem Legal.of_isSkip {i : Instr} {t : State} (hi : IsSkip i s) (hx : exec i s = .next t) : Legal t := by
  obtain ⟨w, hw, hs⟩ := hi
  cases hs.symm.trans hx
  have h2 := toNat_pc_add_two hpc
  have h4 := toNat_pc_add_four hpc
  refine h.setPc ?_
  obtain rfl | rfl := hw <;> omega

theorem Legal.writeFlagThenReg_advance (flag : Byte) (x : Reg) (b : Byte) :
    Legal (writeFlagThenReg (Machine.advance s) flag x b) :=
  ((h.advance hpc).setReg vf flag).setReg x b

theorem Legal.rndWith (random : Byte) (x : Reg) (nn : Byte) : Legal (rndWith random x nn s) :=
  ((h.advance hpc).setReg x _).setDraws _

/-- Every instruction keeps the invariant. The bounds come from the widths of the immediates, from the truncation of `FX1E`
and the range of a font address, from `pc` lying in memory when a call pushes it, and from the range checks. -/
theorem Legal.of_exec {i : Instr} {t : State} (hx : exec i s = .next t) : Legal t := by
  cases i with
  | cls => cases hx; exact (h.advance hpc).setFb _
  | ret =>
    cases hx
    exact h.dropTop.setPc (h.toNat_topOfStack_le.trans (by decide))
  | jp nnn =>
    cases hx
    exact h.setPc (by rw [toNat_zext16]; have := nnn.isLt; omega)
  | call nnn =>
    cases hx
    have ha : (s.pc + 2).toNat ≤ 4096 := by rw [toNat_pc_add_two hpc]; omega
    exact ((h.advance hpc).push ha).setPc (by rw [toNat_zext16]; have := nnn.isLt; omega)
  | jpV0 nnn =>
    cases hx
    exact h.setPc (by rw [toNat_offsetTarget]; have := nnn.isLt; have := (getReg s 0).isLt; omega)
  | seImm x nn => exact h.of_isSkip hpc (isSkip_seImm x nn s) hx
  | sneImm x nn => exact h.of_isSkip hpc (isSkip_sneImm x nn s) hx
  | seReg x y => exact h.of_isSkip hpc (isSkip_seReg x y s) hx
  | sneReg x y => exact h.of_isSkip hpc (isSkip_sneReg x y s) hx
  | skp x => exact h.of_isSkip hpc (isSkip_skp x s) hx
  | sknp x => exact h.of_isSkip hpc (isSkip_sknp x s) hx
  | ldImm x _ | addImm x _ | ldReg x _ | orReg x _ | andReg x _ | xorReg x _ | ldFromDt x =>
    cases hx; exact (h.advance hpc).setReg x _
  | addReg x _ | subReg x _ | shr x _ | subnReg x _ | shl x _ =>
    cases hx; exact h.writeFlagThenReg_advance hpc _ x _
  | waitKey x =>
    obtain hw | ⟨b, hw⟩ := exec_waitKey_cases x s <;> cases hw.symm.trans hx
    · exact h
    · exact (h.advance hpc).setReg x b
  | rnd x nn => cases hx; exact h.rndWith hpc _ x nn
  | ldI nnn =>
    cases hx
    exact (h.advance hpc).setI (by rw [toNat_zext16]; have := nnn.isLt; omega)
  | ldFont x =>
    cases hx
    exact (h.advance hpc).setI (by rw [toNat_fontAddress]; have := (getReg s x).isLt; omega)
  | addI x =>
    cases hx
    exact ((h.advance hpc).setReg vf _).setI (by rw [toNat_truncatedIndex]; omega)
  | ldDt x | ldSt x => cases hx; exact (h.advance hpc).setTimers _ _
  | drw x y n => exact h.of_withRange hx fun _ => ((h.advance hpc).setReg vf _).setFb _
  | bcd x =>
    exact h.of_withRange hx fun hr => (h.advance hpc).storeBytes (by rw [length_decimalDigits]; simpa using hr)
  | storeRegs x =>
    exact h.of_withRange hx fun hr => (h.advance hpc).storeBytes (by rw [length_regList]; simpa using hr)
  | loadRegs x => exact h.of_withRange hx fun _ => (h.advance hpc).loadRegList _

/-- Nor does the byte a host gives `CXNN` matter to the invariant. -/
theorem Legal.of_execWith {random : Byte} {i : Instr} {t : State} (hx : execWith random i s = .next t) : Legal t := by
  by_cases hi : ∃ x nn, i = .rnd x nn
  · obtain ⟨x, nn, rfl⟩ := hi
    cases hx
    exact h.rndWith hpc random x nn
  · rw [execWith_of_ne_rnd random s fun x nn hrnd => hi ⟨x, nn, hrnd⟩] at hx
    exact h.of_exec hpc hx

end

/-! ## The events keep the invariant -/

section
variable {s : State} (h : Legal s)
include h

/-- The cycle keeps the invariant when the way to run an instruction inside memory does. -/
theorem Legal.of_runCycle {run : Instr → State → Result} {t : State} (hc : runCycle run s = .next t)
    (hrun : s.pc.toNat ≤ 4094 → ∀ i, run i s = .next t → Legal t) : Legal t := by
  obtain ⟨-, hr⟩ | ⟨-, -, hr⟩ | ⟨-, hpc, i, -, hr⟩ | ⟨-, hpc, -, hr⟩ := runCycle_cases run s
  · cases hr.symm.trans hc
    exact h
  · cases hr.symm.trans hc
    exact h.raiseFault _ (by decide)
  · exact hrun hpc i (hr.symm.trans hc)
  · cases hr.symm.trans hc
    exact h.advance hpc

theorem Legal.of_step {t : State} (hs : step s = .next t) : Legal t :=
  h.of_runCycle hs fun hpc _ hx => h.of_exec hpc hx

theorem Legal.of_stepWith {random : Byte} {t : State} (hs : stepWith random s = .next t) : Legal t :=
  h.of_runCycle hs fun hpc _ hx => h.of_execWith hpc hx

theorem Legal.unlessHalted {after : State} (ha : Legal after) : Legal (unlessHalted s after) := by
  unfold Machine.unlessHalted
  split
  · exact h
  · exact ha

theorem Legal.tick : Legal (tick s) := h.unlessHalted (h.setTimers _ _)

theorem Legal.setKey (k : Int) (pressed : Bool) : Legal (setKey k pressed s) := by
  refine h.unlessHalted ?_
  split
  · exact h.setKeys _
  · exact h

/-- The part of an image that is copied fits in memory above 0x200 (70_reset_and_hazards.md R201). -/
theorem Legal.loadImage (bytes : List Byte) : Legal (loadImage bytes s) := by
  have hlen : (bytes.take Config.maxImage).length ≤ 3584 := List.length_take_le _ _
  refine h.unlessHalted (h.storeBytes ?_)
  simp only [Config.start]
  omega

end

/-- Settles O52: no slot or address is set, memory is the empty list, and the latch names no fault. -/
theorem resetMeetsTheInvariant : Obligations.ResetMeetsTheInvariant where
  index := by decide
  counter := by decide
  slots := by decide
  memory := wf_reset
  latch := by decide

theorem legal_resetMachine (s : State) : Legal (resetMachine s) := Legal.setDraws resetMeetsTheInvariant s.draws

theorem Legal.of_applyEvent {e : Event} {s t : State} (h : Legal s) (he : applyEvent e s = .next t) : Legal t := by
  cases e with
  | reset => cases he; exact legal_resetMachine s
  | load bytes => cases he; exact h.loadImage bytes
  | step random => exact h.of_stepWith he
  | tick => cases he; exact h.tick
  | key k pressed => cases he; exact h.setKey k pressed

/-- Settles O53: the invariant is kept by every path of the cycle, and on the path that runs an instruction by every
operation the meanings are made of. -/
theorem stepKeepsTheInvariant : Obligations.StepKeepsTheInvariant := fun _ _ h hs => h.of_step hs

/-- Settles O54: `RESET` establishes the invariant, and each other event keeps it. -/
theorem everyEventKeepsTheInvariant : Obligations.EveryEventKeepsTheInvariant := fun _ _ _ h he => h.of_applyEvent he

end Sys2Proof.Machine
end

section
/-! The cycle path by path, and from it what a step does on a running and on a halted core (40_execute_cycle.md R90 to R95)
and what holds in every reachable state (10_state.md R37). -/

namespace Sys2Proof.Machine

/-! ## The paths of the cycle -/

theorem runCycle_of_halted (run : Instr → State → Result) {s : State} (h : s.halted = true) : runCycle run s = .next s :=
  if_pos h

theorem runCycle_of_fetchFault (run : Instr → State → Result) {s : State} (h : s.halted = false)
    (hpc : 4094 < s.pc.toNat) : runCycle run s = .next (raiseFault .fetchOutOfBounds s.pc.toNat s) := by
  simp [runCycle, h, fetchFaults, hpc]

section
variable (run : Instr → State → Result) {s : State} (h : s.halted = false) (hpc : s.pc.toNat ≤ 4094)
include h hpc

theorem runCycle_of_instr {i : Instr} (hd : decodeWord (fetchWord s) = .instr i) : runCycle run s = run i s := by
  simp [runCycle, h, fetchFaults, Nat.not_lt.2 hpc, hd]

theorem runCycle_of_unknown {w : Word} (hd : decodeWord (fetchWord s) = .unknown w) :
    runCycle run s = .next (advance s) := by
  simp [runCycle, h, fetchFaults, Nat.not_lt.2 hpc, hd, passUnknown]

omit run in
theorem stepReport_of_unknown {w : Word} (hd : decodeWord (fetchWord s) = .unknown w) :
    stepReport s = some (.unknownOpcode w s.pc) := by
  simp [stepReport, h, fetchFaults, Nat.not_lt.2 hpc, hd]

end

/-- The cycle asks of a way to run instructions only what it does with the fetched one. -/
theorem runCycle_congr {run run' : Instr → State → Result} {s : State}
    (h : ∀ i, decodeWord (fetchWord s) = .instr i → run i s = run' i s) : runCycle run s = runCycle run' s := by
  unfold runCycle
  cases hd : decodeWord (fetchWord s) with
  | instr i => simp only [h i hd]
  | unknown w => rfl
  | short => rfl

/-- The opcode at `pc` is the number its two bytes make (20_memory.md R54). -/
theorem fetchWord_eq_of_toNat {s : State} {w : Word}
    (h : w.toNat = (loadByte s.mem s.pc.toNat).toNat * 256 + (loadByte s.mem (s.pc.toNat + 1)).toNat) :
    fetchWord s = w :=
  BitVec.eq_of_toNat_eq ((toNat_wordOfBytes _ _).trans h.symm)

/-! ## A running core -/

/-- Settles O6: the fetched opcode is the bit vector of the two bytes, so the cycle takes the path that runs `i`. -/
theorem stepRunsTheDecodedInstruction : Obligations.StepRunsTheDecodedInstruction :=
  fun _ _ h hpc hd => runCycle_of_instr exec h hpc hd

/-- Settles O7: the path of an unknown opcode is the advance, and the report is read off the same decode. -/
theorem unknownOpcodeIsReportedAndPassed : Obligations.UnknownOpcodeIsReportedAndPassed := by
  intro s w h hpc hw hd
  rw [← fetchWord_eq_of_toNat hw] at hd ⊢
  exact ⟨stepReport_of_unknown h hpc hd, advance s, runCycle_of_unknown exec h hpc hd, toNat_pc_add_two hpc,
    keepsAllBut_advance s⟩

/-- Settles O8: the path of a `pc` above 4094 takes the fault, whose information is `pc` in full. -/
theorem fetchOutsideMemoryTakesTheFault : Obligations.FetchOutsideMemoryTakesTheFault :=
  fun s h hpc => ⟨_, runCycle_of_fetchFault exec h hpc, faultTaken_raiseFault _ _ s, rfl, BitVec.ofNat_toNat 16 s.pc⟩

/-- A data range that leaves memory takes the fault with its highest address (60_exceptions.md R174). -/
theorem exists_dataFault_of_withRange {r : Result} {s done : State} {len info : Nat} (hr : r = withRange s len done)
    (hlen : 1 ≤ len) (hinfo : info = s.i.toNat + len - 1) (hout : 4095 < info) :
    ∃ t, r = .next t ∧ FaultTaken .dataOutOfBounds info s t ∧ faultCode t.faultCause = 2 := by
  subst hr hinfo
  exact ⟨_, withRange_fault s len done ⟨hlen, hout⟩, faultTaken_raiseFault _ _ s, rfl⟩

/-- Settles O9: the four data forms are the same range check with their own lengths. -/
theorem dataOutsideMemoryTakesTheFault : Obligations.DataOutsideMemoryTakesTheFault := by
  intro s x y n
  refine ⟨fun h => ?_, fun h => ⟨?_, ?_⟩, fun hn h => ?_⟩
  · exact exists_dataFault_of_withRange (exec_bcd x s) (by decide) rfl h
  · exact exists_dataFault_of_withRange (exec_storeRegs x s) (Nat.succ_pos _) rfl h
  · exact exists_dataFault_of_withRange (exec_loadRegs x s) (Nat.succ_pos _) rfl h
  · exact exists_dataFault_of_withRange (exec_drw x y n s) hn rfl h

/-- Settles O10: of the paths of a running core one is the fetch fault, one the advance, and one an instruction, which
leaves the latch alone or takes a data fault. -/
theorem stepCompletesOrTakesOneFault : Obligations.StepCompletesOrTakesOneFault := by
  intro s hgood
  obtain ⟨hh, -⟩ | ⟨-, hpc, hr⟩ | ⟨-, -, i, -, hr⟩ | ⟨-, -, -, hr⟩ := runCycle_cases exec s
  · exact absurd hh (by simp [show s.halted = false from hgood])
  · exact ⟨_, hr, .inr ⟨.fetchOutOfBounds, s.pc.toNat, by decide, hpc, faultTaken_raiseFault _ _ s⟩⟩
  · obtain ⟨t, ht⟩ := exec_next i s
    refine ⟨t, hr.trans ht, (exec_latch_cases ht).imp_right ?_⟩
    rintro ⟨info, hinfo, rfl⟩
    exact ⟨.dataOutOfBounds, info, by decide, hinfo.le, faultTaken_raiseFault _ _ s⟩
  · exact ⟨_, hr, .inl (keepsAllBut_advance s .latch (by decide))⟩

/-- Settles O12: the jump writes `pc` with the value it holds. -/
theorem jumpToSelfIsQuiescent : Obligations.JumpToSelfIsQuiescent := by
  intro s nnn h hself hmem hd
  have hpc : zext16 nnn = s.pc := BitVec.eq_of_toNat_eq ((toNat_zext16 nnn).trans hself.symm)
  have hstep : step s = exec (.jp nnn) s := runCycle_of_instr exec h (hself.trans_le hmem) hd
  rw [Quiescent, hstep, exec_jp, hpc]
  rfl

/-- Settles O51: at the free byte the two ways to run an instruction agree on all of them, and at any two bytes they agree
on all but `CXNN`. -/
theorem stepIsTheStepEventAtTheFreeByte : Obligations.StepIsTheStepEventAtTheFreeByte := by
  refine ⟨fun s => runCycle_congr fun i _ => ?_, fun s p q hne => runCycle_congr fun i hd => ?_⟩
  · by_cases hi : ∃ x nn, i = .rnd x nn
    · obtain ⟨x, nn, rfl⟩ := hi
      rfl
    · exact (execWith_of_ne_rnd _ s fun x nn hrnd => hi ⟨x, nn, hrnd⟩).symm
  · have hi : ∀ x nn, i ≠ .rnd x nn := fun x nn hrnd => hne x nn (hrnd ▸ hd)
    rw [execWith_of_ne_rnd p s hi, execWith_of_ne_rnd q s hi]

/-! ## A halted core -/

/-- A halted core answers every event but `RESET` with the state it is in (60_exceptions.md R172). -/
theorem applyEvent_of_halted {s : State} (h : s.halted = true) {e : Event} (he : e ≠ .reset) :
    applyEvent e s = .next s := by
  cases e with
  | reset => exact absurd rfl he
  | step random => exact runCycle_of_halted (execWith random) h
  | load _ | tick | key _ _ => exact congrArg Host.Outcome.next (unlessHalted_of_halted s _ h)

theorem eventReport_of_halted {s : State} (h : s.halted = true) (e : Event) : eventReport e s = none := by
  cases e <;> simp [eventReport, stepReport, h]

/-- Settles O11: each event tests the latch before it does or reports anything. -/
theorem haltedCoreIgnoresEventsButReset : Obligations.HaltedCoreIgnoresEventsButReset :=
  fun _ h => ⟨runCycle_of_halted exec h, fun e he => ⟨applyEvent_of_halted h he, eventReport_of_halted h e⟩⟩

/-! ## The reachable states -/

/-- The invariant holds at reset and every event keeps it. -/
theorem Reachable.legal {s : State} (h : Reachable s) : Legal s := by
  induction h with
  | reset => exact resetMeetsTheInvariant
  | event e _ he ih => exact ih.of_applyEvent he

/-- Settles O55: the bounds are the invariant's, the one on `sp` is its type's, and a halted core ignores the events. -/
theorem reachableStatesStayInRange : Obligations.ReachableStatesStayInRange := by
  intro s hs
  obtain ⟨index, counter, slots, memory, -⟩ := hs.legal
  exact ⟨Nat.le_of_lt_succ s.sp.isLt, index, counter, slots, memory, fun h e he => applyEvent_of_halted h he⟩

end Sys2Proof.Machine
end

section
/-! The reset contents of memory and the events of the host other than `STEP`: `RESET`, `LOAD`, `TICK` and `KEY`
(70_reset_and_hazards.md R200, R201; 60_exceptions.md R180 to R182). -/

namespace Sys2Proof.Machine

/-! ## The reset contents -/

theorem resetByte_font {a : Nat} (h : a < 80) : Config.resetByte (0x050 + a) = Config.font.getD a 0 := by
  have hfont : Config.fontBase ≤ 0x050 + a ∧ 0x050 + a < Config.fontBase + 80 := by
    simp only [Config.fontBase]
    omega
  rw [Config.resetByte, if_pos hfont, Config.fontBase, Nat.add_sub_cancel_left]

theorem resetByte_outside {a : Nat} (h : a < 0x050 ∨ 0x0A0 ≤ a) : Config.resetByte a = 0 :=
  if_neg (by simp only [Config.fontBase]; omega)

/-- Settles O46: the state after `RESET` is the table with the draws kept, and its memory is the reset contents. -/
theorem resetGivesTheTable : Obligations.ResetGivesTheTable := by
  intro s
  exact ⟨resetMachine s, rfl, rfl, fun r => Vector.getElem_replicate _, rfl, rfl, rfl,
    fun j => Vector.getElem_replicate _, rfl, rfl, fun k => Vector.getElem_replicate _, pixelAt_clearFrame,
    fun a ha => resetByte_font ha, fun a ha => resetByte_outside ha, rfl, rfl, rfl, rfl⟩

/-! ## The load of an image -/

/-- Settles O47: the copied part of the image lies in memory, so each of its bytes is read back and every other address is
left alone. -/
theorem loadCopiesTheImage : Obligations.LoadCopiesTheImage := by
  intro s bytes h hwf
  have hlen : (bytes.take Config.maxImage).length = min bytes.length 3584 := by
    rw [List.length_take, Nat.min_comm, Config.maxImage]
  refine ⟨_, congrArg Host.Outcome.next (unlessHalted_of_running s _ h), rfl, fun k hk hk' => ?_, fun b hb => ?_,
    keepsAllBut_setMem s _, ?_⟩
  · rw [show (0x200 : Nat) = Config.start from rfl,
      loadByte_storeBytes_inside _ k (by omega) (by rw [hlen, Config.start]; omega) hwf, List.getElem_take,
      List.getD_eq_getElem _ _ hk]
  · exact loadByte_storeBytes_outside _ _ _ b (by rw [hlen]; exact hb)
  · by_cases hfits : bytes.length ≤ 3584
    · simp [eventReport, h, imageFits, Config.maxImage, hfits, Nat.not_lt.2 hfits]
    · simp [eventReport, h, imageFits, Config.maxImage, hfits, Nat.not_le.1 hfits]

/-! ## The timers -/

theorem keepsAllBut_setTimers (s : State) (d t : Byte) : KeepsAllBut [.delay, .sound] s { s with dt := d, st := t } :=
  (keepsAllBut_setDt s d).trans (keepsAllBut_setSt { s with dt := d } t)

theorem applyEvent_tick {s : State} (h : s.halted = false) :
    applyEvent .tick s = .next { s with dt := countDown s.dt, st := countDown s.st } :=
  congrArg Host.Outcome.next (unlessHalted_of_running s _ h)

/-- Settles O48: a tick on the number a timer holds is the subtraction that stops at 0. -/
theorem tickDecrementsTheTimers : Obligations.TickDecrementsTheTimers :=
  fun s h => ⟨_, applyEvent_tick h, toNat_countDown s.dt, toNat_countDown s.st, rfl,
    keepsAllBut_setTimers s _ _⟩

theorem soundOn_iff (s : State) : soundOn s = true ↔ s.st.toNat ≠ 0 := by
  rw [soundOn, bne_iff_ne]
  exact not_congr ⟨fun h => congrArg BitVec.toNat h, fun h => BitVec.eq_of_toNat_eq h⟩

/-- Settles O50: the tone stops when the timer is not 0 and the number one below it is. -/
theorem soundStopsWhenTheTimerReachesZero : Obligations.SoundStopsWhenTheTimerReachesZero := by
  intro s
  refine ⟨soundOn_iff s, fun h => ⟨_, applyEvent_tick h, ?_⟩⟩
  rw [toneStops, Bool.and_eq_true, Bool.not_eq_true', ← Bool.not_eq_true, soundOn_iff, soundOn_iff, toNat_countDown]
  omega

/-! ## The keys -/

/-- A write of the key flags touches those alone. -/
theorem keepsAllBut_setKeys (s : State) (k : Vector Bool 16) : KeepsAllBut [.keys] s { s with key := k } := by
  intro p hp
  cases p with
  | keys => exact absurd (List.mem_singleton.2 rfl) hp
  | _ => simp [Unchanged, getReg]

theorem keyCodeOk_iff (code : Int) : keyCodeOk code = true ↔ ∃ k : Fin 16, code = k.val := by
  rw [keyCodeOk, decide_eq_true_eq]
  constructor
  · intro h
    exact ⟨⟨code.toNat, by omega⟩, by simp only; omega⟩
  · rintro ⟨k, rfl⟩
    omega

theorem setKey_of_code {s : State} (h : s.halted = false) (k : Fin 16) (pressed : Bool) :
    setKey k.val pressed s = { s with key := s.key.setIfInBounds k.val pressed } := by
  rw [setKey, unlessHalted_of_running s _ h, if_pos ((keyCodeOk_iff _).2 ⟨k, rfl⟩)]
  rfl

theorem setKey_of_not_code {s : State} (h : s.halted = false) {code : Int} (hc : keyCodeOk code = false)
    (pressed : Bool) : setKey code pressed s = s := by
  rw [setKey, unlessHalted_of_running s _ h, if_neg (by simp [hc])]

/-- Settles O49: a code that names a key writes its flag; any other leaves the state as it is. -/
theorem keyEventWritesOneFlag : Obligations.KeyEventWritesOneFlag := by
  intro s code pressed h
  by_cases hc : ∃ k : Fin 16, code = k.val
  · obtain ⟨k, rfl⟩ := hc
    refine ⟨_, congrArg Host.Outcome.next (setKey_of_code h k pressed), fun j hj => ?_, fun j hj => ?_, fun hout => ?_,
      rfl, keepsAllBut_setKeys s _⟩
    · obtain rfl : k = j := by omega
      exact Vector.getElem_setIfInBounds_self _
    · exact Vector.getElem_setIfInBounds_ne _ (by omega)
    · omega
  · have hno : keyCodeOk code = false := by rwa [← Bool.not_eq_true, keyCodeOk_iff]
    refine ⟨s, congrArg Host.Outcome.next (setKey_of_not_code h hno pressed), fun j hj => absurd ⟨j, hj⟩ hc,
      fun _ _ => rfl, fun _ => ⟨rfl, ?_⟩, rfl, (keepsAllBut_refl s).mono (by simp)⟩
    simp [eventReport, h, hno]

end Sys2Proof.Machine
end

section
/-! Calls and returns: the stack as the pushes leave it and the pops read it (10_state.md R24 to R26), and the control
transfers that use it or V[0] (41_control_transfer.md R100, R102, R103). -/

namespace Sys2Proof.Machine

/-! ## Pushes and pops -/

/-- Pops see the stack pointer and the slots below it. -/
theorem popMany_congr : ∀ (n : Nat) {s t : State}, t.sp.val = s.sp.val →
    (∀ j : Fin 16, j.val < s.sp.val → t.stack[j.val] = s.stack[j.val]) → popMany n t = popMany n s
  | 0, _, _, _, _ => rfl
  | n + 1, s, t, hsp, hslots => by
    have top : topOfStack t = topOfStack s := by
      by_cases h0 : s.sp.val = 0
      · rw [topOfStack_empty s (Fin.ext h0), topOfStack_empty t (Fin.ext (hsp.trans h0))]
      · have hj : s.sp.val = (⟨s.sp.val - 1, by omega⟩ : Fin 16).val + 1 := by simp only; omega
        rw [topOfStack_of_pos s _ hj, topOfStack_of_pos t _ (hsp.trans hj)]
        exact hslots _ (by simp only; omega)
    have rest : popMany n (dropTop t) = popMany n (dropTop s) :=
      popMany_congr n (by simp [hsp]) fun j hj => hslots j (by rw [dropTop_sp_val] at hj; omega)
    rw [popMany, popMany, top, rest]

/-- A pop right after a push that fits returns the value pushed. -/
theorem topOfStack_push {s : State} (a : Word) (h : s.sp.val < 16) : topOfStack (push s a) = a := by
  have hsp := (push_of_lt s a h).1
  rw [topOfStack_of_pos _ ⟨s.sp.val, h⟩ hsp, getElem_stack_push s a s.sp.val h, if_pos rfl]

/-- Such a pop takes the stack pointer back to where it was. -/
theorem dropTop_push_sp {s : State} (a : Word) (h : s.sp.val < 16) : (dropTop (push s a)).sp = s.sp := by
  apply Fin.ext
  rw [dropTop_sp_val, (push_of_lt s a h).1, Nat.add_sub_cancel]

/-- Such a pop leaves a stack that pops like the one before the push, since the slot written is not below `sp`. -/
theorem popMany_dropTop_push (n : Nat) {s : State} (a : Word) (h : s.sp.val < 16) :
    popMany n (dropTop (push s a)) = popMany n s := by
  refine popMany_congr n (congrArg Fin.val (dropTop_push_sp a h)) fun j hj => ?_
  rw [dropTop_stack, getElem_stack_push, if_neg (by omega)]

theorem pushMany_append_singleton (vs : List Word) (a : Word) (s : State) :
    pushMany (vs ++ [a]) s = push (pushMany vs s) a := by
  rw [pushMany, List.foldl_append]
  rfl

/-- By induction on the last value pushed, which is the first one popped. -/
theorem popMany_pushMany (s : State) (values : List Word) : s.sp.val + values.length ≤ 16 →
    (pushMany values s).sp.val = s.sp.val + values.length ∧
      popMany values.length (pushMany values s) = values.reverse := by
  induction values using List.reverseRecOn with
  | nil => exact fun _ => ⟨rfl, rfl⟩
  | append_singleton vs a ih =>
    rw [List.length_append, List.length_singleton, pushMany_append_singleton]
    intro hfit
    obtain ⟨hsp, hpops⟩ := ih (by omega)
    have hfree : (pushMany vs s).sp.val < 16 := by omega
    refine ⟨by rw [(push_of_lt _ a hfree).1, hsp, Nat.add_assoc], ?_⟩
    rw [popMany, topOfStack_push a hfree, popMany_dropTop_push _ a hfree, hpops, List.reverse_append,
      List.reverse_singleton, List.singleton_append]

/-- A pop of an empty stack leaves it empty (10_state.md R26). -/
theorem dropTop_empty {s : State} (h : s.sp = 0) : dropTop s = s := by
  have hsp : (dropTop s).sp = s.sp := Fin.ext (by rw [dropTop_sp_val, h]; rfl)
  exact congrArg (fun p => { s with sp := p }) hsp

/-- Settles O17: the values come back by induction on the pushes; a full stack takes no push; an empty one returns the
sentinel. -/
theorem pushedValuesPopInReverse : Obligations.PushedValuesPopInReverse := by
  refine ⟨popMany_pushMany, fun s a h => push_of_full s a ?_, fun s h => ⟨topOfStack_empty s h, dropTop_empty h⟩⟩
  rw [h]
  decide

/-! ## The control transfers -/

/-- Settles O13: the meaning writes `pc` with what the pop returns; the pop keeps every slot. -/
theorem retPopsTheReturnAddress : Obligations.RetPopsTheReturnAddress := by
  refine ⟨decodeWord_encode_ret, fun s => ⟨_, exec_ret s, fun h => ⟨topOfStack_empty s h, ?_⟩,
    fun j hj => ⟨topOfStack_of_pos s j hj, ?_⟩, rfl, fun j => rfl, keepsAllBut_ret s _⟩⟩
  · rw [setPc_sp, dropTop_empty h, h]
  · rw [setPc_sp, dropTop_sp_val, hj, Nat.add_sub_cancel]

/-- Settles O15: with a free slot the push fills it and moves `sp`; with none it does nothing. -/
theorem callPushesTheReturnAddress : Obligations.CallPushesTheReturnAddress := by
  intro nnn
  refine ⟨decodeWord_encode_call nnn, fun s => ⟨_, exec_call nnn s, toNat_zext16 nnn, fun j hj => ⟨?_, ?_, fun k hk => ?_⟩,
    fun hfull => ?_, rfl, keepsAllBut_call s _ _⟩⟩
  · rw [setPc_sp, (push_of_lt _ _ (by rw [advance_sp]; omega)).1, advance_sp, hj]
  · rw [setPc_stack, getElem_stack_push, if_pos (by rw [advance_sp, hj])]
  · rw [setPc_stack, getElem_stack_push, if_neg (by rw [advance_sp]; omega), advance_stack]
  · rw [push_of_full _ _ (by rw [advance_sp, hfull]; decide)]
    exact ⟨rfl, fun j => rfl⟩

/-- Settles O16: the 16-bit sum does not wrap, so `pc` is the number NNN + V[0]. -/
theorem jpV0AddsRegisterZero : Obligations.JpV0AddsRegisterZero := by
  intro nnn
  refine ⟨decodeWord_encode_jpV0 nnn, fun s => ⟨_, exec_jpV0 nnn s, ?_, keepsAllBut_setPc s _⟩⟩
  rw [setPc_pc, toNat_offsetTarget]

/-- Settles O18: the return pops what the call has pushed, the address after the call. -/
theorem returnUndoesCall : Obligations.ReturnUndoesCall := by
  intro s nnn hfree
  refine ⟨_, _, exec_call nnn s, exec_ret _, topOfStack_push (s := advance s) (s.pc + 2) hfree,
    dropTop_push_sp (s := advance s) (s.pc + 2) hfree, ?_⟩
  exact ((keepsAllBut_call s _ _).trans (keepsAllBut_ret _ _)).mono (by decide)

end Sys2Proof.Machine
end

section
/-! The arithmetic that writes a flag, and the random draw: what the two register writes of a flag writer leave
(43_alu.md R120), and each result and flag as a number (43_alu.md R127 to R133; 44_index_memory.md R141). -/

namespace Sys2Proof.Machine

/-! ## The two register writes -/

section
variable (s : State) (flag : Byte) (x : Reg) (b : Byte)

theorem getReg_writeFlagThenReg_dest : getReg (writeFlagThenReg s flag x b) x = b := by
  rw [getReg_writeFlagThenReg, if_pos rfl]

variable {x} in
theorem getReg_writeFlagThenReg_vf (hx : x ≠ vf) : getReg (writeFlagThenReg s flag x b) vf = flag := by
  rw [getReg_writeFlagThenReg, if_neg (Ne.symm hx), if_pos rfl]

theorem regsKeptBut_writeFlagThenReg : RegsKeptBut [x, vf] s (writeFlagThenReg s flag x b) := by
  intro r hr
  rw [List.mem_cons, List.mem_singleton, not_or] at hr
  rw [getReg_writeFlagThenReg, if_neg hr.1, if_neg hr.2]

end

/-- What every flag writer with a result register does, whatever its flag and result (43_alu.md R120). -/
theorem flagWriter_spec {i : Instr} {s : State} {flag : Byte} {x : Reg} {b : Byte} {P : Byte → Prop} {Q : Byte → Prop}
    (h : exec i s = .next (writeFlagThenReg (advance s) flag x b)) (hP : P b) (hQ : Q flag) :
    ∃ t, exec i s = .next t ∧ t.pc = s.pc + 2 ∧ P (getReg t x) ∧ (x ≠ vf → Q (getReg t vf)) ∧
      RegsKeptBut [x, vf] s t ∧ KeepsAllBut [.regs] s t := by
  refine ⟨_, h, rfl, ?_, fun hx => ?_, regsKeptBut_writeFlagThenReg (advance s) flag x b,
    keepsAllBut_writeFlagThenReg_advance s flag x b⟩
  · rwa [getReg_writeFlagThenReg_dest]
  · rwa [getReg_writeFlagThenReg_vf _ _ _ hx]

/-! ## The results and the flags as numbers -/

theorem flagByte_decide (p : Prop) [Decidable p] : flagByte (decide p) = if p then 1 else 0 := by simp [flagByte]

theorem toNat_flagByte (c : Bool) : (flagByte c).toNat = c.toNat := by cases c <;> rfl

/-- The difference of two bytes is the integer difference reduced modulo 256. -/
theorem toNat_sub_eq_emod (a b : Byte) : ((a - b).toNat : Int) = (a.toNat - b.toNat : Int) % 256 := by
  have := a.isLt; have := b.isLt
  rw [BitVec.toNat_sub]
  omega

theorem toNat_ushiftRight_one (a : Byte) : (a >>> 1).toNat = a.toNat / 2 := by
  rw [BitVec.toNat_ushiftRight, Nat.shiftRight_eq_div_pow]

theorem toNat_shiftLeft_one (a : Byte) : (a <<< 1).toNat = a.toNat * 2 % 256 := by
  rw [BitVec.toNat_shiftLeft, Nat.shiftLeft_eq]

/-- The bit a right shift moves out is the remainder by 2. -/
theorem toNat_shrFlag (a : Byte) : (shrFlag a).toNat = a.toNat % 2 := by
  rw [shrFlag, toNat_flagByte, BitVec.getLsbD, Nat.toNat_testBit, pow_zero, Nat.div_one]

/-- The bit a left shift moves out is the quotient by 128. -/
theorem toNat_shlFlag (a : Byte) : (shlFlag a).toNat = a.toNat / 128 := by
  have := a.isLt
  rw [shlFlag, toNat_flagByte, BitVec.getLsbD, Nat.toNat_testBit]
  omega

/-! ## The flag writers -/

/-- Settles O25: the result is the bit vector sum and the flag says whether it wrapped. -/
theorem addRegAddsWithCarry : Obligations.AddRegAddsWithCarry := by
  intro x y
  refine ⟨decodeWord_encode_addReg x y, fun s => ?_⟩
  exact flagWriter_spec (P := fun b => b.toNat = ((getReg s x).toNat + (getReg s y).toNat) % 256)
    (Q := fun b => b = if 255 < (getReg s x).toNat + (getReg s y).toNat then 1 else 0)
    (exec_addReg x y s) (BitVec.toNat_add _ _) (flagByte_decide _)

/-- Settles O26: the result is the bit vector difference and the flag says whether none was borrowed. -/
theorem subRegSubtractsWithNoBorrow : Obligations.SubRegSubtractsWithNoBorrow := by
  intro x y
  refine ⟨decodeWord_encode_subReg x y, fun s => ?_⟩
  exact flagWriter_spec (P := fun b => (b.toNat : Int) = ((getReg s x).toNat - (getReg s y).toNat : Int) % 256)
    (Q := fun b => b = if (getReg s y).toNat ≤ (getReg s x).toNat then 1 else 0)
    (exec_subReg x y s) (toNat_sub_eq_emod _ _) (flagByte_decide _)

/-- Settles O27: as `8XY5` with the two operands changed over. -/
theorem subnRegSubtractsTheOtherWay : Obligations.SubnRegSubtractsTheOtherWay := by
  intro x y
  refine ⟨decodeWord_encode_subnReg x y, fun s => ?_⟩
  exact flagWriter_spec (P := fun b => (b.toNat : Int) = ((getReg s y).toNat - (getReg s x).toNat : Int) % 256)
    (Q := fun b => b = if (getReg s x).toNat ≤ (getReg s y).toNat then 1 else 0)
    (exec_subnReg x y s) (toNat_sub_eq_emod _ _) (flagByte_decide _)

/-- Settles O28: the shifts halve and double, the flags are the remainder and the quotient; no meaning reads Y. -/
theorem shiftsMoveOneBitOut : Obligations.ShiftsMoveOneBitOut := by
  intro x y
  refine ⟨decodeWord_encode_shr x y, decodeWord_encode_shl x y, fun s => ⟨?_, ?_, fun z => ⟨rfl, rfl⟩⟩⟩
  · exact flagWriter_spec (P := fun b => b.toNat = (getReg s x).toNat / 2)
      (Q := fun b => b.toNat = (getReg s x).toNat % 2) (exec_shr x y s) (toNat_ushiftRight_one _) (toNat_shrFlag _)
  · exact flagWriter_spec (P := fun b => b.toNat = (getReg s x).toNat * 2 % 256)
      (Q := fun b => b.toNat = (getReg s x).toNat / 128) (exec_shl x y s) (toNat_shiftLeft_one _) (toNat_shlFlag _)

/-- The write of `I` in `FX1E` leaves the flag in VF. -/
theorem getReg_addIndex_vf (s : State) (flag : Byte) (w : Word) :
    getReg (setI (setReg (advance s) vf flag) w) vf = flag := getReg_setReg_self (advance s) vf flag

/-- Settles O31: the sum is reduced to twelve bits, and VF, which no later write touches, says whether that changed it. -/
theorem addIndexWrapsAtTwelveBits : Obligations.AddIndexWrapsAtTwelveBits := by
  intro x
  refine ⟨readsAs_of_decodeWord_encodeX (decodeWord_encode_addI x), fun s => ⟨_, exec_addI x s, rfl, ?_, ?_,
    regsKeptBut_setReg_advance s vf _, keepsAllBut_addIndex s _ _⟩⟩
  · rw [setI_i, toNat_truncatedIndex, indexSum]
  · exact (getReg_addIndex_vf s _ _).trans (flagByte_decide _)

/-! ## The random draw -/

theorem regsKeptBut_rndWith (random : Byte) (x : Reg) (nn : Byte) (s : State) :
    RegsKeptBut [x] s (rndWith random x nn s) := regsKeptBut_setReg_advance s x _

theorem getReg_rndWith (random : Byte) (x : Reg) (nn : Byte) (s : State) :
    getReg (rndWith random x nn s) x = random &&& nn := getReg_setReg_self (advance s) x _

/-- Settles O29: the byte written is the random byte under the mask, whatever the random byte is. -/
theorem rndMasksTheRandomByte : Obligations.RndMasksTheRandomByte := by
  intro x nn
  refine ⟨decodeWord_encode_rnd x nn, fun s => ⟨⟨_, exec_rnd x nn s, rfl, ?_, regsKeptBut_rndWith _ x nn s,
    keepsAllBut_rndWith _ x nn s⟩, rfl, fun random => ⟨_, rfl, rfl, fun k _ => ?_, rfl, regsKeptBut_rndWith _ x nn s,
    keepsAllBut_rndWith _ x nn s⟩⟩⟩
  · rw [getReg_rndWith, BitVec.and_assoc, BitVec.and_not_self]
    exact BitVec.and_zero
  · rw [getReg_rndWith, BitVec.getLsbD_and]

end Sys2Proof.Machine
end

section
/-! The instructions that access data, inside memory: the glyph a font pointer finds, the digits and the registers stored
and loaded (44_index_memory.md R142 to R145; 20_memory.md R55, R61, R63), and the sprite drawn (45_display.md R151, R152). -/

namespace Sys2Proof.Machine

/-! ## The glyph -/

/-- A glyph is four pixels wide (10_state.md R41). -/
theorem font_lowNibble : ∀ a, a < 80 → (Config.font.getD a 0).toNat % 16 = 0 := by decide

/-- Settles O33: the memory of reset lists nothing, so it reads as the font where `FX29` points. -/
theorem fontPointerFindsTheGlyph : Obligations.FontPointerFindsTheGlyph := by
  intro x s hmem hdigit
  refine ⟨_, exec_ldFont x s, fun k hk => ?_⟩
  have hin : 5 * (getReg s x).toNat + k < 80 := by omega
  have hread : loadByte s.mem (0x050 + 5 * (getReg s x).toNat + k) = Config.font.getD (5 * (getReg s x).toNat + k) 0 := by
    rw [hmem, Nat.add_assoc]
    exact resetByte_font hin
  rw [setI_mem, advance_mem, setI_i, toNat_fontAddress, hread]
  exact ⟨rfl, font_lowNibble _ hin⟩

/-! ## Stores -/

theorem exec_bcd_of_range {x : Reg} {s : State} (h : s.i.toNat + 2 ≤ 4095) : exec (.bcd x) s =
    .next { advance s with mem := storeBytes s.mem s.i.toNat (decimalDigits (getReg s x)) } :=
  withRange_ok s 3 _ (.inr (by omega))

theorem exec_storeRegs_of_range {x : Reg} {s : State} (h : s.i.toNat + x.val ≤ 4095) : exec (.storeRegs x) s =
    .next { advance s with mem := storeBytes s.mem s.i.toNat (regList s x) } :=
  withRange_ok s (x.val + 1) _ (.inr (by omega))

/-- Each decimal digit fits in a byte, so none is cut. -/
theorem toNat_getElem_decimalDigits (b : Byte) :
    (decimalDigits b)[0].toNat = b.toNat / 100 ∧ (decimalDigits b)[1].toNat = b.toNat / 10 % 10 ∧
      (decimalDigits b)[2].toNat = b.toNat % 10 := by
  have := b.isLt
  simp only [decimalDigits, List.getElem_cons_zero, List.getElem_cons_succ, BitVec.toNat_ofNat]
  omega

/-- Settles O34: the run of three stores lies in memory, so each digit is read back where it was stored. -/
theorem bcdStoresTheDecimalDigits : Obligations.BcdStoresTheDecimalDigits := by
  intro x
  refine ⟨readsAs_of_decodeWord_encodeX (decodeWord_encode_bcd x), fun s hwf hr => ?_⟩
  have digit : ∀ k (hk : k < 3), loadByte (storeBytes s.mem s.i.toNat (decimalDigits (getReg s x))) (s.i.toNat + k) =
      (decimalDigits (getReg s x))[k] := fun k hk =>
    loadByte_storeBytes_inside (decimalDigits (getReg s x)) k hk (by rw [length_decimalDigits]; omega) hwf
  obtain ⟨hundreds, tens, ones⟩ := toNat_getElem_decimalDigits (getReg s x)
  refine ⟨_, exec_bcd_of_range hr, rfl, ?_, ?_, ?_, fun b hb => loadByte_storeBytes_outside _ _ _ b hb,
    keepsAllBut_setMem_advance s _⟩
  · exact (congrArg BitVec.toNat (digit 0 (by decide))).trans hundreds
  · exact (congrArg BitVec.toNat (digit 1 (by decide))).trans tens
  · exact (congrArg BitVec.toNat (digit 2 (by decide))).trans ones

/-- The registers stored by `FX55` are read back in their order. -/
theorem loadByte_storeBytes_regList {s : State} {x r : Reg} (hwf : Memory.wf s.mem = true)
    (hr : s.i.toNat + x.val ≤ 4095) (hrx : r ≤ x) :
    loadByte (storeBytes s.mem s.i.toNat (regList s x)) (s.i.toNat + r.val) = getReg s r := by
  have hlt : r.val < (regList s x).length := by rw [length_regList]; exact Nat.lt_succ_of_le hrx
  rw [loadByte_storeBytes_inside _ r.val hlt (by rw [length_regList]; omega) hwf, getElem_regList]

/-- Settles O35: the run of stores lies in memory, so each register is read back where it was stored. -/
theorem storeRegsStoresTheRun : Obligations.StoreRegsStoresTheRun := by
  intro x
  refine ⟨readsAs_of_decodeWord_encodeX (decodeWord_encode_storeRegs x), fun s hwf hr => ?_⟩
  exact ⟨_, exec_storeRegs_of_range hr, rfl, fun r hrx => loadByte_storeBytes_regList hwf hr hrx,
    fun b hb => loadByte_storeBytes_outside _ _ _ b (by rw [length_regList]; exact hb), keepsAllBut_setMem_advance s _⟩

/-! ## Loads -/

theorem exec_loadRegs_of_range {x : Reg} {s : State} (h : s.i.toNat + x.val ≤ 4095) : exec (.loadRegs x) s =
    .next (loadRegList (advance s) (loadBytes s.mem s.i.toNat (x.val + 1))) :=
  withRange_ok s (x.val + 1) _ (.inr (by omega))

section
variable (s : State) (m : Memory) (a : Nat) {x r : Reg}

theorem getReg_loadRegList_loadBytes_of_le (h : r ≤ x) :
    getReg (loadRegList s (loadBytes m a (x.val + 1))) r = loadByte m (a + r.val) := by
  rw [getReg_loadRegList, dif_pos (by rw [length_loadBytes]; exact Nat.lt_succ_of_le h), getElem_loadBytes]

theorem getReg_loadRegList_loadBytes_of_gt (h : x < r) :
    getReg (loadRegList s (loadBytes m a (x.val + 1))) r = getReg s r := by
  rw [getReg_loadRegList, dif_neg (by rw [length_loadBytes]; exact Nat.not_lt.2 h)]

end

/-- Settles O36: the loaded bytes go to the registers from V[0] up to V[X] and no further. -/
theorem loadRegsLoadsTheRun : Obligations.LoadRegsLoadsTheRun := by
  intro x
  refine ⟨readsAs_of_decodeWord_encodeX (decodeWord_encode_loadRegs x), fun s hr => ?_⟩
  exact ⟨_, exec_loadRegs_of_range hr, rfl, fun r h => getReg_loadRegList_loadBytes_of_le (advance s) _ _ h,
    fun r h => getReg_loadRegList_loadBytes_of_gt (advance s) _ _ h, keepsAllBut_loadRegList_advance s _⟩

/-- Settles O37: the bytes loaded are the registers stored, so the register file too is as it was. -/
theorem storeThenLoadRestoresRegisters : Obligations.StoreThenLoadRestoresRegisters := by
  intro s x hwf hr
  have hframe := (keepsAllBut_setMem_advance s (storeBytes s.mem s.i.toNat (regList s x))).trans
    (keepsAllBut_loadRegList_advance _ (loadBytes (storeBytes s.mem s.i.toNat (regList s x)) s.i.toNat (x.val + 1)))
  refine ⟨_, _, exec_storeRegs_of_range hr, exec_loadRegs_of_range hr, BitVec.add_assoc s.pc 2 2, fun p hp => ?_⟩
  by_cases hregs : p = .regs
  · subst hregs
    intro r
    by_cases hrx : r ≤ x
    · exact (getReg_loadRegList_loadBytes_of_le _ _ _ hrx).trans (loadByte_storeBytes_regList hwf hr hrx)
    · exact getReg_loadRegList_loadBytes_of_gt _ _ _ (not_le.1 hrx)
  · exact hframe p (by simpa [hregs] using hp)

/-- Settles O38: the two bytes at the new `pc` are two neighbours of the run just stored, so the fetch finds the opcode they
make. -/
theorem storedBytesAreTheNextOpcode : Obligations.StoredBytesAreTheNextOpcode := by
  intro s x r i hwf hrun hpc hr hat hrx hd
  have hpc2 : (s.pc + 2).toNat = s.i.toNat + r.val := (toNat_pc_add_two (by omega)).trans hat.symm
  have hlt : r.val < x.val := hrx
  have hnext : (r + 1).val = r.val + 1 := Fin.val_add_one_of_lt' (by omega)
  have high := loadByte_storeBytes_regList hwf hr hrx.le
  have low := loadByte_storeBytes_regList (r := r + 1) hwf hr (show (r + 1).val ≤ x.val by omega)
  rw [hnext, ← Nat.add_assoc] at low
  refine ⟨_, exec_storeRegs_of_range hr, runCycle_of_instr exec (s := { advance s with mem := _ }) hrun ?_ ?_⟩
  · change (s.pc + 2).toNat ≤ 4094
    omega
  · change decodeWord (wordOfBytes (loadByte _ (s.pc + 2).toNat) (loadByte _ ((s.pc + 2).toNat + 1))) = _
    rw [hpc2, high, low]
    exact hd

/-! ## Sprites -/

/-- Toggling the same pixels twice gives every pixel of the frame back. -/
theorem pixelAt_of_toggledWhere_twice {covers : Nat → Nat → Prop} {f g k : Frame} (hfg : ToggledWhere covers f g)
    (hgk : ToggledWhere covers g k) {px py : Nat} (hx : px < 64) (hy : py < 32) : pixelAt k px py = pixelAt f px py := by
  by_cases hc : covers px py
  · rw [(hgk px py hx hy).1 hc, (hfg px py hx hy).1 hc, Bool.not_not]
  · rw [(hgk px py hx hy).2 hc, (hfg px py hx hy).2 hc]

/-- Settles O41: both drawings toggle the pixels the sprite covers, which do not depend on the frame. -/
theorem spriteIsItsOwnInverse : Obligations.SpriteIsItsOwnInverse := by
  intro f x y rows h
  have h32 : rows.length ≤ 32 := h.trans (by decide)
  exact frame_ext _ _ fun px py hx hy =>
    pixelAt_of_toggledWhere_twice (toggledWhere_drawSprite f x y rows h32) (toggledWhere_drawSprite _ x y rows h32) hx hy

/-- What a sprite covers depends on its own rows only. -/
theorem spriteCovers_congr {row row' : Nat → Byte} {height : Nat} (h : ∀ r, r < height → row r = row' r) :
    SpriteCovers row height = SpriteCovers row' height := by
  funext x y px py
  refine propext (exists_congr fun r => exists_congr fun c => and_congr_right fun hr => ?_)
  rw [h r hr]

/-- The rows `DXYN` draws are the bytes from `I` up (45_display.md R152). -/
theorem spriteCovers_spriteRows (s : State) (n : Imm4) :
    SpriteCovers (fun r => (spriteRows s n).getD r 0) (spriteRows s n).length =
      SpriteCovers (fun r => loadByte s.mem (s.i.toNat + r)) n.toNat := by
  rw [length_spriteRows]
  refine spriteCovers_congr fun r hr => ?_
  have hlt : r < (loadBytes s.mem s.i.toNat n.toNat).length := by rwa [length_loadBytes]
  rw [spriteRows, List.getD_eq_getElem _ _ hlt, getElem_loadBytes]

theorem drawAt_fb (s : State) (x y : Reg) (rows : List Byte) :
    (drawAt s x y rows).fb = (drawSprite s.fb (getReg s x).toNat (getReg s y).toNat rows).1 := rfl

theorem getReg_drawAt_vf (s : State) (x y : Reg) (rows : List Byte) : getReg (drawAt s x y rows) vf =
    flagByte (drawSprite s.fb (getReg s x).toNat (getReg s y).toNat rows).2 := getReg_setReg_self (advance s) vf _

theorem regsKeptBut_drawAt (s : State) (x y : Reg) (rows : List Byte) : RegsKeptBut [vf] s (drawAt s x y rows) :=
  regsKeptBut_setReg_advance s vf _

/-- Settles O42: the meaning is the compositor on the bytes from `I` up, and VF is the compositor's collision. -/
theorem drwDrawsAndFlagsCollision : Obligations.DrwDrawsAndFlagsCollision := by
  intro x y n
  refine ⟨decodeWord_encode_drw x y n, fun s hr => ?_⟩
  have hlen : n.toNat = 0 ∨ s.i.toNat + n.toNat ≤ 4096 := hr.imp_left fun h => congrArg BitVec.toNat h
  have h32 : (spriteRows s n).length ≤ 32 := by
    have := n.isLt
    rw [length_spriteRows]
    omega
  have toggled := toggledWhere_drawSprite s.fb (getReg s x).toNat (getReg s y).toNat (spriteRows s n) h32
  have collision := drawSprite_collision_iff s.fb (getReg s x).toNat (getReg s y).toNat (spriteRows s n) h32
  rw [spriteCovers_spriteRows] at toggled collision
  refine ⟨_, (exec_drw x y n s).trans (withRange_ok s _ _ hlen), rfl, toggled, fun hc => ?_, fun hc => ?_,
    regsKeptBut_drawAt s x y _, keepsAllBut_drawAt s x y _⟩
  · rw [getReg_drawAt_vf, collision.2 hc]
    rfl
  · rw [getReg_drawAt_vf, Bool.eq_false_iff.2 (mt collision.1 hc)]
    rfl

end Sys2Proof.Machine
end

section
/-! Whole-machine rules: which instructions write which part of the state (10_state.md R20 to R34), what becomes of VF
(10_state.md R21), and the parts that instructions do not read (10_state.md R28; 20_memory.md R60). -/

namespace Sys2Proof.Machine

/-! ## What is written -/

/-- The spec names an instruction for every part that the instruction can write. -/
theorem pattern_mem_writersOf (i : Instr) : ∀ p ∈ partsWritten i, i.pattern ∈ writersOf p := by
  cases i <;> simp [partsWritten, Instr.pattern, writersOf]

/-- The check of a range has passed when the core is not halted afterwards. -/
theorem eq_done_of_withRange {s t done : State} {len : Nat} (h : withRange s len done = .next t)
    (hrun : t.halted = false) : t = done := by
  obtain ⟨-, rfl⟩ | ⟨-, rfl⟩ := withRange_cases s t len done h
  · cases hrun
  · rfl

/-- Every meaning but those of the eleven ends in the advance, unless it takes a fault (10_state.md R23). -/
theorem exec_pc {i : Instr} {s t : State} (hx : exec i s = .next t) (hrun : t.halted = false)
    (hi : i.pattern ∉ pcWriters) : t.pc = s.pc + 2 := by
  cases i with
  | ret | jp _ | call _ | jpV0 _ | seImm _ _ | sneImm _ _ | seReg _ _ | sneReg _ _ | skp _ | sknp _ | waitKey _ =>
    exact absurd (by simp [Instr.pattern, pcWriters]) hi
  | drw _ _ _ | bcd _ | storeRegs _ | loadRegs _ => rw [eq_done_of_withRange hx hrun]; rfl
  | _ => cases hx; rfl

/-- Settles O56: a part that the spec does not name an instruction for is not among those it can write; and an instruction
outside the list of `pc` ends in the advance. -/
theorem onlyNamedInstructionsWriteAPart : Obligations.OnlyNamedInstructionsWriteAPart :=
  ⟨fun i _ _ p hx hi => exec_keepsAllBut hx p (mt (pattern_mem_writersOf i p) hi),
    fun _ _ _ _ hx hrun hi => exec_pc hx hrun hi⟩

/-! ## VF -/

theorem ne_vf_of_destination {i : Instr} {x : Reg} (hi : destination i ≠ some vf) (hx : destination i = some x) :
    x ≠ vf := fun h => hi (hx.trans (congrArg some h))

/-- A run of loads that ends below VF does not reach it. -/
theorem getReg_loadRegs_vf {s t : State} {x : Reg} (hx : exec (.loadRegs x) s = .next t) (hne : x ≠ vf) :
    getReg t vf = getReg s vf := by
  obtain ⟨-, rfl⟩ | ⟨-, rfl⟩ := withRange_cases s t _ _ hx
  · exact keepsAllBut_raiseFault _ _ s .regs (by decide) vf
  · have hlt : x < vf := lt_of_le_of_ne (Fin.le_last x) hne
    exact getReg_loadRegList_loadBytes_of_gt (advance s) s.mem s.i.toNat hlt

/-- Settles O57: an instruction that is no flag writer leaves the register file alone, or writes one register that is not VF,
or loads a run that ends below VF. -/
theorem onlyFlagWritersTouchVf : Obligations.OnlyFlagWritersTouchVf := by
  intro i s t hx hi hd
  cases i with
  | addReg _ _ | subReg _ _ | subnReg _ _ | shr _ _ | shl _ _ | drw _ _ _ | addI _ =>
    exact absurd (by simp [Instr.pattern, flagWriters]) hi
  | ldImm x _ | addImm x _ | ldReg x _ | orReg x _ | andReg x _ | xorReg x _ | rnd x _ | ldFromDt x =>
    cases hx
    exact getReg_setReg_of_ne (advance s) _ (ne_vf_of_destination hd rfl).symm
  | waitKey x =>
    obtain hw | ⟨b, hw⟩ := exec_waitKey_cases x s <;> cases hw.symm.trans hx
    · rfl
    · exact getReg_setReg_of_ne (advance s) b (ne_vf_of_destination hd rfl).symm
  | loadRegs x => exact getReg_loadRegs_vf hx (ne_vf_of_destination hd rfl)
  | _ => exact exec_keepsAllBut hx .regs (by simp [partsWritten]) vf

/-- Settles O58: VF ends as the flag, which no later write of the instruction touches when its destination is another
register, and every flag is one of two bytes. -/
theorem flagIsZeroOrOne : Obligations.FlagIsZeroOrOne := by
  intro i s t _ hx hrun hi hd
  cases i with
  | addReg x _ | subReg x _ | subnReg x _ | shr x _ | shl x _ =>
    cases hx
    rw [getReg_writeFlagThenReg_vf (advance s) _ _ (ne_vf_of_destination hd rfl)]
    exact flagByte_eq _
  | addI x =>
    cases hx
    rw [getReg_addIndex_vf]
    exact flagByte_eq _
  | drw x y n =>
    rw [eq_done_of_withRange hx hrun, getReg_drawAt_vf]
    exact flagByte_eq _
  | _ => exact absurd hi (by simp [Instr.pattern, flagWriters])

/-! ## What is not read -/

/-- The state with its sound timer and its memory put through two functions; the identity leaves one as it is. -/
def mapStMem (g : Byte → Byte) (k : Memory → Memory) (s : State) : State := { s with st := g s.st, mem := k s.mem }

theorem skipIf_mapStMem (g : Byte → Byte) (k : Memory → Memory) (c : Bool) (s : State) :
    skipIf c (mapStMem g k s) = mapStMem g k (skipIf c s) := by
  cases c <;> rfl

theorem push_mapStMem (g : Byte → Byte) (k : Memory → Memory) (s : State) (a : Word) :
    push (mapStMem g k s) a = mapStMem g k (push s a) := by
  by_cases h : s.sp.val < 16 <;> simp [push, mapStMem, h]

/-- An instruction that neither writes the sound timer nor accesses memory carries both from its start to its end and looks
at neither. -/
theorem exec_mapStMem (g : Byte → Byte) (k : Memory → Memory) {i : Instr} {s t : State}
    (hi : i.pattern ∉ ["FX18", "DXYN", "FX33", "FX55", "FX65"]) (hx : exec i s = .next t) :
    exec i (mapStMem g k s) = .next (mapStMem g k t) := by
  cases i with
  | ldSt _ | drw _ _ _ | bcd _ | storeRegs _ | loadRegs _ => exact absurd (by simp [Instr.pattern]) hi
  | call nnn =>
    cases hx
    exact congrArg (fun u => Host.Outcome.next (setPc u (zext16 nnn))) (push_mapStMem g k (advance s) _)
  | seImm _ _ | sneImm _ _ | seReg _ _ | sneReg _ _ | skp _ | sknp _ =>
    cases hx
    exact congrArg Host.Outcome.next (skipIf_mapStMem g k _ (advance s))
  | waitKey x =>
    cases hkey : lowestKey s with
    | none =>
      cases (exec_waitKey_none x hkey).symm.trans hx
      exact exec_waitKey_none x hkey
    | some r =>
      cases (exec_waitKey_some x hkey).symm.trans hx
      exact exec_waitKey_some x hkey
  | _ => cases hx; rfl

/-- The check of a range does not look at the sound timer, and a fault keeps it. -/
theorem withRange_setSt {s t done : State} {len : Nat} (b : Byte) (h : withRange s len done = .next t) :
    withRange { s with st := b } len { done with st := b } = .next { t with st := b } := by
  obtain ⟨hout, rfl⟩ | ⟨hin, rfl⟩ := withRange_cases s t len done h
  · exact if_pos hout
  · exact if_neg hin

/-- Settles O59: the four instructions that access memory pass the timer through their range check; the others carry it
along; `FX18` writes over it. -/
theorem noInstructionReadsTheSoundTimer : Obligations.NoInstructionReadsTheSoundTimer := by
  refine ⟨fun i s t b hi hx => ?_, fun x s b => rfl⟩
  by_cases hmem : i.pattern ∈ ["DXYN", "FX33", "FX55", "FX65"]
  · cases i with
    | drw _ _ _ | bcd _ | storeRegs _ | loadRegs _ => exact withRange_setSt b hx
    | _ => exact absurd hmem (by simp [Instr.pattern])
  · exact exec_mapStMem (fun _ => b) id (List.not_mem_cons_of_ne_of_not_mem hi hmem) hx

/-- Settles O60: once `FX18` is seen to be one write of the timer, the others carry memory along. -/
theorem onlyFourInstructionsReachMemory : Obligations.OnlyFourInstructionsReachMemory := by
  intro i s t m hi hx
  by_cases hst : i.pattern = "FX18"
  · cases i with
    | ldSt x => cases hx; rfl
    | _ => exact absurd hst (by simp [Instr.pattern])
  · exact exec_mapStMem id (fun _ => m) (List.not_mem_cons_of_ne_of_not_mem hst hi) hx

end Sys2Proof.Machine
end
